-- ==== Sys2Proof/Word.lean ====
section
/-! DEFINITION. The words of the block (30_encoding.md R100, 20_memory.md R79): their widths and nothing else. -/

namespace Sys2Proof

/-- A colour channel intensity: an unsigned byte (00_scope.md R12). -/
abbrev Byte := BitVec 8

/-- A command word or a micro-step word (30_encoding.md R100, formats CMD and MICRO). -/
abbrev Word := BitVec 64

/-- A response word (30_encoding.md R100, format RESP). -/
abbrev Resp := BitVec 32

/-- One slot of a timing buffer. SLOT_WIDTH is a parameter, one of 8, 16 and 32 (00_scope.md R8), so a slot is kept in
the widest of the three and its value stays below 2^SLOT_WIDTH. -/
abbrev Slot := BitVec 32

end Sys2Proof
end

