-- ==== Sys2Proof/Syntax.lean ====
section
/-! DEFINITION. The instructions: the five host commands and the six micro-steps of spec/opcode_table.json. -/

namespace Sys2Proof

/-- Which timing buffer: BUF, XBUF, ACT and the target T are 1-bit buffer numbers (10_state.md R32, R35, R38). -/
inductive Buf where
  | b0
  | b1
  deriving DecidableEq, Repr

/-- The instructions, one constructor per row of the opcode table, in the table's order. The host issues the first five
(30_encoding.md R104); the block takes the other six itself (R107). -/
inductive Instr where
  /-- INIT: one-time setup (42_transfer_controller.md R220). -/
  | init
  /-- SET_PIXEL INDEX, RV, GV, BV (40_pixel_store.md R140). -/
  | setPixel (index : BitVec 16) (r g b : Byte)
  /-- GET_PIXEL INDEX (40_pixel_store.md R150). -/
  | getPixel (index : BitVec 16)
  /-- SHOW: encode and restart the transfer (42_transfer_controller.md R212). -/
  | showFrame
  /-- CLEAR: zero every pixel, then show (42_transfer_controller.md R216). -/
  | clear
  /-- PX_WRITE(INDEX, CH, VAL) (40_pixel_store.md R142). -/
  | pxWrite (index : BitVec 16) (ch : BitVec 2) (val : Byte)
  /-- PX_READ(INDEX, CH) (40_pixel_store.md R152). -/
  | pxRead (index : BitVec 16) (ch : BitVec 2)
  /-- ENC_WRITE(BUF, SLOT) (41_encoder.md R170). -/
  | encWrite (buf : Buf) (slot : BitVec 24)
  /-- XFER_STOP (42_transfer_controller.md R225). -/
  | xferStop
  /-- XFER_START(BUF) (42_transfer_controller.md R227). -/
  | xferStart (buf : Buf)
  /-- XFER_EMIT (42_transfer_controller.md R230). -/
  | xferEmit
  deriving DecidableEq, Repr

end Sys2Proof
end

