-- ==== Sys2Proof/WellFormed.lean ====
section
/-! DEFINITION. Which terms of `Instr` are instructions: the one restriction the encoding puts on an operand. -/

namespace Sys2Proof

/-- "CH encodes the channel: 0 = G, 1 = R, 2 = B; CH = 3 is never produced" (30_encoding.md R107). Every other operand
admits every value of its field: an INDEX of LED_COUNT or more is a legal encoding (R103). -/
def Instr.wellFormed : Instr → Bool
  | .init => true
  | .setPixel _ _ _ _ => true
  | .getPixel _ => true
  | .showFrame => true
  | .clear => true
  | .pxWrite _ ch _ => ch != 3#2
  | .pxRead _ ch => ch != 3#2
  | .encWrite _ _ => true
  | .xferStop => true
  | .xferStart _ => true
  | .xferEmit => true

end Sys2Proof
end

