-- ==== Sys2Proof/Decode.lean ====
section
/-! DEFINITION. The decoder and the encoder, both from the tables of 30_encoding.md R101, R104 and R107. -/

namespace Sys2Proof

/-- Why a word names no instruction. -/
inductive DecodeError where
  /-- No row of the table matches the word (R105, R106). -/
  | noRow
  /-- A PX_WRITE or PX_READ word with CH = 3, which is never produced (R107). -/
  | channelNeverProduced
  /-- The instruction is not a word of 64 bits (R100: all formats have a fixed length). -/
  | notOneWord
  deriving DecidableEq, Repr

/-- The rows of the opcode table, in its order. -/
inductive Row where
  | init
  | setPixel
  | getPixel
  | showFrame
  | clear
  | pxWrite
  | pxRead
  | encWrite
  | xferStop
  | xferStart
  | xferEmit
  deriving DecidableEq, Repr

/-- The match column: the fixed bits of the row (R104, R107). -/
def Row.pattern : Row → Word
  | .init => 0x0100000000000000
  | .setPixel => 0x0200000000000000
  | .getPixel => 0x0300000000000000
  | .showFrame => 0x0400000000000000
  | .clear => 0x0500000000000000
  | .pxWrite => 0x8000000000000000
  | .pxRead => 0x8100000000000000
  | .encWrite => 0x8200000000000000
  | .xferStop => 0x8300000000000000
  | .xferStart => 0x8400000000000000
  | .xferEmit => 0x8500000000000000

/-- The mask column: which bits of the row are fixed (R104, R107). -/
def Row.mask : Row → Word
  | .init => 0xFFFFFFFFFFFFFFFF
  | .setPixel => 0xFFFF0000FF000000
  | .getPixel => 0xFFFF0000FFFFFFFF
  | .showFrame => 0xFFFFFFFFFFFFFFFF
  | .clear => 0xFFFFFFFFFFFFFFFF
  | .pxWrite => 0xFFFF0000FCFFFF00
  | .pxRead => 0xFFFF0000FCFFFFFF
  | .encWrite => 0xFFFE000000FFFFFF
  | .xferStop => 0xFFFFFFFFFFFFFFFF
  | .xferStart => 0xFFFEFFFFFFFFFFFF
  | .xferEmit => 0xFFFFFFFFFFFFFFFF

/-- The commands of the port (R104). -/
def cmdRows : List Row := [.init, .setPixel, .getPixel, .showFrame, .clear]

/-- The micro-steps (R107). -/
def microRows : List Row := [.pxWrite, .pxRead, .encWrite, .xferStop, .xferStart, .xferEmit]

/-- A word spells a row when `w & mask = match` (R104). -/
def Row.hits (r : Row) (w : Word) : Bool := w &&& r.mask == r.pattern

/-- INDEX, bits 47:32, unsigned and unscaled (R101, R103, R107). -/
def fieldIndex (w : Word) : BitVec 16 := w.extractLsb' 32 16

/-- RV, bits 23:16 (R101). -/
def fieldR (w : Word) : Byte := w.extractLsb' 16 8

/-- GV, bits 15:8 (R101). -/
def fieldG (w : Word) : Byte := w.extractLsb' 8 8

/-- BV, bits 7:0 (R101). VAL of PX_WRITE has the same place (R107). -/
def fieldB (w : Word) : Byte := w.extractLsb' 0 8

/-- CH, bits 25:24 (R107). -/
def fieldCh (w : Word) : BitVec 2 := w.extractLsb' 24 2

/-- SLOT, bits 47:24 (R107). -/
def fieldSlot (w : Word) : BitVec 24 := w.extractLsb' 24 24

/-- The buffer a 1-bit buffer number names (10_state.md R32). -/
def Buf.ofBit (b : BitVec 1) : Buf := if b = 0#1 then .b0 else .b1

/-- The 1-bit number of a buffer (10_state.md R32). -/
def Buf.bit : Buf → BitVec 1
  | .b0 => 0#1
  | .b1 => 1#1

/-- BUF, bit 48 (R107). -/
def fieldBuf (w : Word) : Buf := Buf.ofBit (w.extractLsb' 48 1)

/-- The instruction a word that spells the row stands for: its operand fields assembled (R103, R105, R107). -/
def Row.build (r : Row) (w : Word) : Instr :=
  match r with
  | .init => .init
  | .setPixel => .setPixel (fieldIndex w) (fieldR w) (fieldG w) (fieldB w)
  | .getPixel => .getPixel (fieldIndex w)
  | .showFrame => .showFrame
  | .clear => .clear
  | .pxWrite => .pxWrite (fieldIndex w) (fieldCh w) (fieldB w)
  | .pxRead => .pxRead (fieldIndex w) (fieldCh w)
  | .encWrite => .encWrite (fieldBuf w) (fieldSlot w)
  | .xferStop => .xferStop
  | .xferStart => .xferStart (fieldBuf w)
  | .xferEmit => .xferEmit

/-- The first of some rows that a word spells. -/
def findRow (rows : List Row) (w : Word) : Option Row := rows.find? (fun r => r.hits w)

/-- The decode of the command port (R105). `none` is ILLEGAL: an unassigned OP, a MICRO code, or a non-zero value in a
field that must be 0 (R106). -/
def decodePort (w : Word) : Option Instr := (findRow cmdRows w).map (fun r => r.build w)

/-- The micro-step a MICRO word names (R107). -/
def decodeMicro (w : Word) : Except DecodeError Instr :=
  match findRow microRows w with
  | none => .error .noRow
  | some r => if (r.build w).wellFormed then .ok (r.build w) else .error .channelNeverProduced

/-- The whole opcode table: a command where the word spells one, else a micro-step. -/
def decode (w : Word) : Except DecodeError Instr :=
  match decodePort w with
  | some i => .ok i
  | none => decodeMicro w

/-- A word with every length the caller may claim for it: each format is one word of 64 bits (R100); a caller that gives
fewer bits leaves the bits above them 0. -/
def decodeBits (nbits w : Nat) : Except DecodeError Instr :=
  if nbits ≤ 64 ∧ w < 2 ^ nbits then decode (BitVec.ofNat 64 w) else .error .notOneWord

/-- The decoder's reading of an instruction numbered as the opcode table numbers it: one 64-bit word, bit 0 the least
significant (00_scope.md R12); there is no byte order, a word arrives whole (20_memory.md R92). -/
def decodeTableWord (nbits w : Nat) : Option Instr :=
  match decodeBits nbits w with
  | .ok i => some i
  | .error _ => none

/-- The word of an instruction, its fields laid from bit 63 down as R101 (CMD: OP, RSV1, INDEX, RSV2, RV, GV, BV) and R107
(MICRO) lay them. -/
def encode : Instr → Word
  | .init => 0x01#8 ++ 0#56
  | .setPixel index r g b => 0x02#8 ++ 0#8 ++ index ++ 0#8 ++ r ++ g ++ b
  | .getPixel index => 0x03#8 ++ 0#8 ++ index ++ 0#32
  | .showFrame => 0x04#8 ++ 0#56
  | .clear => 0x05#8 ++ 0#56
  | .pxWrite index ch val => 0x80#8 ++ 0#8 ++ index ++ 0#6 ++ ch ++ 0#16 ++ val
  | .pxRead index ch => 0x81#8 ++ 0#8 ++ index ++ 0#6 ++ ch ++ 0#24
  | .encWrite buf slot => 0x82#8 ++ 0#7 ++ buf.bit ++ slot ++ 0#24
  | .xferStop => 0x83#8 ++ 0#56
  | .xferStart buf => 0x84#8 ++ 0#7 ++ buf.bit ++ 0#48
  | .xferEmit => 0x85#8 ++ 0#56

/-- The row an instruction belongs to. -/
def Instr.row : Instr → Row
  | .init => .init
  | .setPixel _ _ _ _ => .setPixel
  | .getPixel _ => .getPixel
  | .showFrame => .showFrame
  | .clear => .clear
  | .pxWrite _ _ _ => .pxWrite
  | .pxRead _ _ => .pxRead
  | .encWrite _ _ => .encWrite
  | .xferStop => .xferStop
  | .xferStart _ => .xferStart
  | .xferEmit => .xferEmit

/-- Whether the host issues the instruction at the command port (R104) or the block takes it itself (R107). -/
def Instr.isCommand (i : Instr) : Bool := cmdRows.contains i.row

end Sys2Proof
end

