-- ==== Sys2Proof/Config.lean ====
section
/-! DEFINITION. The parameters of 00_scope.md R8 as plain data, the test instance of 95_test_vectors.md, and the free
values: opaque constants, of which nothing can be proved. -/

namespace Sys2Proof

/-- SLOT_WIDTH is one of 8, 16, 32 (00_scope.md R8). -/
inductive SlotWidth where
  | w8
  | w16
  | w32
  deriving DecidableEq, Repr

/-- XFER_MODE (00_scope.md R8): after its last slot the engine wraps to slot 0, or stops. -/
inductive XferMode where
  | circular
  | oneShot
  deriving DecidableEq, Repr

/-- The level of the output line at one tick: IDLE is the level of a 0 code, ACTIVE the level of a pulse (10_state.md
R47). -/
inductive LineLevel where
  | idle
  | active
  deriving DecidableEq, Repr

/-- The parameters of 00_scope.md R8. They are fixed for the lifetime of the hardware (R7): `State` carries them as plain
data and no step writes them, so that a statement over all states speaks of every configuration. -/
structure Config where
  /-- LED_COUNT, N -/
  ledCount : Nat
  /-- RESET_SLOTS, R -/
  resetSlots : Nat
  /-- PWM_ZERO -/
  pwmZero : Nat
  /-- PWM_ONE -/
  pwmOne : Nat
  /-- SLOT_WIDTH -/
  slotWidth : SlotWidth
  /-- PWM_PERIOD_TICKS, P -/
  periodTicks : Nat
  /-- XFER_MODE -/
  xferMode : XferMode
  /-- DOUBLE_BUFFER -/
  doubleBuffer : Bool
  /-- XFER_MAY_FAIL -/
  xferMayFail : Bool
  /-- STOPPED_LINE -/
  stoppedLine : LineLevel
  deriving DecidableEq, Repr

/-- The test instance TI of 95_test_vectors.md section 0, with this hardware's values of XFER_MODE, DOUBLE_BUFFER,
XFER_MAY_FAIL and STOPPED_LINE (00_scope.md R8).
DESIGN CHOICE, unsafe: the spec leaves the numeric parameters OPEN and TI is its test choice (log entry 1). -/
def Config.testInstance : Config where
  ledCount := 2
  resetSlots := 3
  pwmZero := 30
  pwmOne := 60
  slotWidth := .w16
  periodTicks := 100
  xferMode := .circular
  doubleBuffer := false
  xferMayFail := false
  stoppedLine := .idle

/-- The Boolean of the k-th `fail_draw()`: "a free Boolean draw at each XFER_STOP and XFER_START ..., under no law"
(42_transfer_controller.md R229). A free value: it has no body (log entry 4). -/
opaque Config.failDraw : Nat → Bool

/-- The k-th free choice among several enabled micro-steps: "any one of them may be taken" (20_memory.md R84,
93_implementation_defined.md V5 to V8). A free value: it has no body (log entry 4). -/
opaque Config.freeTurn : Nat → Nat

/-- T_PWM, the duration of one slot period: OPEN, physical, used by no step (00_scope.md R8, log entry 9). -/
opaque Config.slotDuration : Nat

/-- T_LATCH_MIN, the LED protocol's minimum latch time, in the unit of `Config.slotDuration`: OPEN, physical, used by no
step (00_scope.md R8, log entry 9). -/
opaque Config.latchMinimum : Nat

end Sys2Proof
end

