-- ==== Sys2Proof/Machine/State.lean ====
section
/-! DEFINITION. The machine's state as plain data (10_state.md R31 to R48), why a step can stop, and the state after
reset (70_reset_and_hazards.md R300). -/

namespace Sys2Proof.Machine

/-- The two host contexts (60_exceptions.md R270). As FCTX: MAIN is 0, IRQ is 1 (10_state.md R41). -/
inductive Ctx where
  | main
  | irq
  deriving DecidableEq, Repr

/-- A colour channel, in the storage and transmission order: 0 = G, 1 = R, 2 = B (10_state.md R31). -/
inductive Chan where
  | g
  | r
  | b
  deriving DecidableEq, Repr

/-- XSTATE (10_state.md R34). -/
inductive XState where
  | stopped
  | running
  deriving DecidableEq, Repr

/-- An event on the output line (10_state.md R43). -/
inductive LineEvent where
  /-- SLOT(c): one output slot period carrying the duty-cycle code c. -/
  | slot (code : Slot)
  /-- HALT: the engine stopped. -/
  | halt
  deriving DecidableEq, Repr

/-- The kind of a zeroing phase: CLR's kind is CLEAR or INIT (10_state.md R42). -/
inductive ClearKind where
  | forClear
  | forInit
  deriving DecidableEq, Repr

/-- The kind of an encode, stop or start phase (10_state.md R42). -/
inductive ShowKind where
  | forShow
  | forClear
  | forInit
  deriving DecidableEq, Repr

/-- The bytes a GET_PIXEL has read so far, by channel: absent where not yet read (10_state.md R42, `got`). -/
structure Got where
  g : Option Byte
  r : Option Byte
  b : Option Byte
  deriving DecidableEq, Repr

/-- The phases of a main command in progress (10_state.md R42). A set `pend` is a list in increasing order with no
repeats, so that equal sets are equal data. -/
inductive Phase where
  /-- SETP(i, g, r, b, pend): a main SET_PIXEL writing bytes. -/
  | setp (index : BitVec 16) (g r b : Byte) (pend : List Chan)
  /-- GETP(i, got, pend): a main GET_PIXEL reading bytes. -/
  | getp (index : BitVec 16) (got : Got) (pend : List Chan)
  /-- CLR(kind, pend): the zeroing phase of CLEAR or INIT, with the bytes not yet zeroed. -/
  | clr (kind : ClearKind) (pend : List (Nat × Chan))
  /-- ENC(kind, T, w): the encode phase, its target buffer and next slot. -/
  | enc (kind : ShowKind) (target : Buf) (next : Nat)
  /-- STOP(kind, T). -/
  | stop (kind : ShowKind) (target : Buf)
  /-- START(kind, T). -/
  | start (kind : ShowKind) (target : Buf)
  deriving DecidableEq, Repr

/-- MAIN, the main context's command in progress, with its command word MAIN.word (10_state.md R42). -/
inductive MainRec where
  | idle
  | busy (word : Word) (phase : Phase)
  deriving DecidableEq, Repr

/-- One step of one agent, named (20_memory.md R84): the model's way to hold an interleaving as plain data. -/
inductive Turn where
  /-- A host context issues a 64-bit word at the command port. -/
  | issue (ctx : Ctx) (word : Word)
  /-- The block takes the micro-step that a MICRO word names (30_encoding.md R107): a micro-step of MAIN's command, or the
  engine's XFER_EMIT. -/
  | micro (word : Word)
  deriving DecidableEq, Repr

/-- The state. The fields down to `out` are the spec's (10_state.md R48); the last three are the model's own. -/
structure State where
  /-- The configuration (00_scope.md R8), which no step writes (10_state.md R49). -/
  cfg : Config
  /-- PX (R31): byte of channel c of pixel i at element 3·i + c, canonical (see `Machine/Ops.lean`). -/
  px : List Host.Cell
  /-- TB[0] (R32): slot s at element s, canonical. -/
  tb0 : List (Nat × Slot)
  /-- TB[1] (R32): exists when DOUBLE_BUFFER = true; empty otherwise. -/
  tb1 : List (Nat × Slot)
  /-- XSTATE (R34). -/
  xstate : XState
  /-- XBUF (R35). -/
  xbuf : Buf
  /-- XCUR (R36). -/
  xcur : BitVec 24
  /-- XCNT (R37). -/
  xcnt : BitVec 25
  /-- ACT (R38). -/
  act : Buf
  /-- INITED (R39). -/
  inited : Bool
  /-- TRUNC (R40). -/
  trunc : Bool
  /-- SPLIT (R40). -/
  split : Bool
  /-- FAULT (R41). -/
  fault : Bool
  /-- FCODE (R41). -/
  fcode : BitVec 8
  /-- FWORD (R41). -/
  fword : Word
  /-- FCTX (R41). -/
  fctx : Ctx
  /-- MAIN with MAIN.word (R42). -/
  main : MainRec
  /-- TRACE, oldest event first (R43). -/
  trace : List LineEvent
  /-- OUT, oldest response first (R44). -/
  out : List (Ctx × Resp)
  /-- The model's own: the steps the agents take next, in order (20_memory.md R84, log entry 2). -/
  agenda : List Turn
  /-- The model's own: the context of the word at the command port (60_exceptions.md R270, log entry 3). -/
  portCtx : Ctx
  /-- The model's own: how many free values have been drawn (log entry 4). -/
  draws : Nat
  deriving DecidableEq, Repr

/-- Why a step cannot be taken: the block has no move. None of these is a fault of the spec, which is recorded in the
state (60_exceptions.md R262). All are safe: the model stops. -/
inductive Fault where
  /-- Raised by every step when FAULT = 1: "no agent has an enabled step" until reset (60_exceptions.md R263). Safe. -/
  | halted
  /-- Raised by a micro-step whose "Enabled when" does not hold (20_memory.md R84, 41_encoder.md R170,
  42_transfer_controller.md R225, R227, R230), and by a script directive that is not admitted at its place (30_encoding.md
  R109, log entry 13). Safe. -/
  | notEnabled
  /-- Raised by a command issued from MAIN while MAIN ≠ IDLE: such a host "has no move in the model"
  (93_implementation_defined.md U13, 60_exceptions.md R271). Safe. -/
  | mainBusy
  /-- Raised by an access to a pixel byte or a slot that does not exist (20_memory.md R70): no run makes one (R78,
  40_pixel_store.md R142). Safe. -/
  | noSuchElement
  /-- Raised by an agenda entry whose word names no micro-step (30_encoding.md R107). Safe. -/
  | noSuchMicroStep
  /-- Raised by the last PX_READ of a GETP record that lacks a byte it no longer waits for: no run reaches such a record
  (40_pixel_store.md R151). Safe. -/
  | malformedRecord
  deriving DecidableEq, Repr

/-- Why the model gives a step no meaning. -/
inductive Refusal where
  /-- Raised by `exec` for an instruction without a meaning; no arm does so any more. Safe. -/
  | notModelled (mnemonic : String)
  /-- Raised by every step in a state whose configuration breaks a range of 00_scope.md R8 or a constraint of R10: "the
  model refuses it" (93_implementation_defined.md U10, V21). Safe. -/
  | illFormedConfig
  deriving DecidableEq, Repr

/-- The outcome of a step of this machine. -/
abbrev Out := Host.Outcome State Fault Refusal

/-- The state after reset of a block with a given configuration (70_reset_and_hazards.md R300). -/
def State.resetWith (cfg : Config) : State where
  cfg := cfg
  px := []
  tb0 := []
  tb1 := []
  xstate := .stopped
  xbuf := .b0
  xcur := 0
  xcnt := 0
  act := .b0
  inited := false
  trunc := false
  split := false
  fault := false
  fcode := 0
  fword := 0
  fctx := .main
  main := .idle
  trace := []
  out := []
  agenda := []
  portCtx := .main
  draws := 0

/-- The state after reset (70_reset_and_hazards.md R300), with the OPEN parameters at the spec's test instance (DESIGN
CHOICE, log entry 1). -/
def State.reset : State := State.resetWith Config.testInstance

end Sys2Proof.Machine
end

