-- ==== Sys2Proof/Machine/Ops.lean ====
section
/-! DEFINITION. The named operations over the state: the canonical element lists, the primitives of 00_scope.md R14
(PxRead, PxWrite, TbRead, TbWrite, Emit, Respond, raise Fault), the legality of a configuration, and when a step can be
taken at all. -/

namespace Sys2Proof.Machine

/-! ### The configuration (00_scope.md R8 to R11) -/

/-- SLOT_WIDTH in bits (R8). -/
def slotBits : SlotWidth → Nat
  | .w8 => 8
  | .w16 => 16
  | .w32 => 32

/-- 24·N: the number of data slots of a buffer (R15). -/
def dataSlots (c : Config) : Nat := 24 * c.ledCount

/-- BUFFER_SIZE = LED_COUNT × 24 + RESET_SLOTS (R9). -/
def bufferSize (c : Config) : Nat := c.ledCount * 24 + c.resetSlots

/-- The ranges of R8 and the constraints of R10, items 1 to 4. -/
def legal (c : Config) : Bool :=
  decide (1 ≤ c.ledCount ∧ c.ledCount ≤ 65535 ∧ 1 ≤ c.resetSlots ∧ bufferSize c ≤ 2 ^ 24 ∧ 1 ≤ c.periodTicks ∧
    c.pwmZero ≠ c.pwmOne ∧ c.pwmZero ≠ 0 ∧ c.pwmOne ≠ 0 ∧
    c.pwmZero < 2 ^ slotBits c.slotWidth ∧ c.pwmOne < 2 ^ slotBits c.slotWidth ∧
    c.pwmZero ≤ c.periodTicks ∧ c.pwmOne ≤ c.periodTicks ∧ c.pwmZero < c.pwmOne)

/-- The latch-gap premise RESET_SLOTS × T_PWM > T_LATCH_MIN (R11), which no step checks (70_reset_and_hazards.md R322). -/
def latchGapMet (c : Config) : Prop := Config.latchMinimum < c.resetSlots * Config.slotDuration

/-- zext_SLOT_WIDTH(v): a code as a slot of SLOT_WIDTH bits (00_scope.md R12, 41_encoder.md R170). -/
def slotOf (c : Config) (v : Nat) : Slot := BitVec.ofNat 32 (v % 2 ^ slotBits c.slotWidth)

/-- The slot a 0 bit is sent as (PWM_ZERO). -/
def zeroCode (c : Config) : Slot := slotOf c c.pwmZero

/-- The slot a 1 bit is sent as (PWM_ONE). -/
def oneCode (c : Config) : Slot := slotOf c c.pwmOne

/-- The code of a reset slot: "0 (idle/no pulse)" (10_state.md R33). -/
def idleCode : Slot := 0

/-! ### Element lists: the canonical form of the Pixel Store and of a timing buffer -/

/-- What an element that is not listed holds: 0, the reset contents of both stores (10_state.md R31, R32). -/
def unlisted (n : Nat) : BitVec n := 0

/-- The element at an index. -/
def cellRead {n : Nat} : List (Nat × BitVec n) → Nat → BitVec n
  | [], _ => unlisted n
  | (k, v) :: rest, a => if k = a then v else cellRead rest a

/-- Writing an element: the list stays sorted, and an element that holds what an unlisted one holds is not listed. -/
def cellWrite {n : Nat} : List (Nat × BitVec n) → Nat → BitVec n → List (Nat × BitVec n)
  | [], a, v => if v = unlisted n then [] else [(a, v)]
  | (k, u) :: rest, a, v =>
    if a < k then (if v = unlisted n then (k, u) :: rest else (a, v) :: (k, u) :: rest)
    else if a = k then (if v = unlisted n then rest else (a, v) :: rest)
    else (k, u) :: cellWrite rest a v

/-- The canonical form above a bound: indexes strictly rising, each at least the bound, and no listed element holds what
an unlisted one holds. -/
def cellsFrom {n : Nat} : Nat → List (Nat × BitVec n) → Bool
  | _, [] => true
  | low, (k, v) :: rest => decide (low ≤ k) && decide (v ≠ unlisted n) && cellsFrom (k + 1) rest

/-- The canonical form. -/
def cellsWf {n : Nat} (m : List (Nat × BitVec n)) : Bool := cellsFrom 0 m

/-- Every listed index lies below a size: an array of that many elements. -/
def cellsBelow {n : Nat} (size : Nat) (m : List (Nat × BitVec n)) : Bool := m.all (fun e => decide (e.1 < size))

/-! ### Pixel space and slot space (20_memory.md R70) -/

/-- The place of a channel in the storage order: 0 = G, 1 = R, 2 = B (10_state.md R31). -/
def chanIndex : Chan → Nat
  | .g => 0
  | .r => 1
  | .b => 2

/-- Pixel i is a pixel of the store: i < LED_COUNT, compared unsigned (30_encoding.md R103). -/
def hasPixel (c : Config) (i : Nat) : Bool := decide (i < c.ledCount)

/-- Buffer b exists: TB[1] only when DOUBLE_BUFFER = true (10_state.md R32). -/
def hasBuffer (c : Config) (b : Buf) : Bool := decide (b = .b0) || c.doubleBuffer

/-- Slot s of buffer b exists (20_memory.md R70). -/
def hasSlot (c : Config) (b : Buf) (s : Nat) : Bool := hasBuffer c b && decide (s < bufferSize c)

/-- The element of the Pixel Store that holds channel c of pixel i. -/
def pxElem (i : Nat) (c : Chan) : Nat := 3 * i + chanIndex c

/-- PxRead(i, c) (00_scope.md R14). -/
def pxRead (s : State) (i : Nat) (c : Chan) : Byte := cellRead s.px (pxElem i c)

/-- PxWrite(i, c, v) (00_scope.md R14). -/
def pxWrite (s : State) (i : Nat) (c : Chan) (v : Byte) : State := { s with px := cellWrite s.px (pxElem i c) v }

/-- The slots of a buffer. -/
def bufferOf (s : State) : Buf → List (Nat × Slot)
  | .b0 => s.tb0
  | .b1 => s.tb1

/-- TbRead(b, s) (00_scope.md R14). -/
def tbRead (s : State) (b : Buf) (slot : Nat) : Slot := cellRead (bufferOf s b) slot

/-- TbWrite(b, s, v) (00_scope.md R14): the other buffer is untouched. -/
def tbWrite (s : State) (b : Buf) (slot : Nat) (v : Slot) : State :=
  { s with
    tb0 := if b = .b0 then cellWrite s.tb0 slot v else s.tb0
    tb1 := if b = .b1 then cellWrite s.tb1 slot v else s.tb1 }

/-- The Pixel Store and both buffers are canonical. -/
def Memory.wf (s : State) : Bool := cellsWf s.px && cellsWf s.tb0 && cellsWf s.tb1

/-! ### Records and logs -/

/-- Emit(e): append a line event to TRACE (00_scope.md R14, 10_state.md R43). -/
def emit (e : LineEvent) (s : State) : State := { s with trace := s.trace ++ [e] }

/-- Respond(ctx, w): append a response to OUT (00_scope.md R14, 10_state.md R44). -/
def respond (ctx : Ctx) (w : Resp) (s : State) : State := { s with out := s.out ++ [(ctx, w)] }

/-- Set MAIN. -/
def setMain (m : MainRec) (s : State) : State := { s with main := m }

/-- Advance the free-value counter. -/
def draw (s : State) : State := { s with draws := s.draws + 1 }

/-- The fault codes (60_exceptions.md R261). -/
inductive FaultCode where
  | illegalCommand
  | irqContext
  | initRepeated
  | notInitialized
  | startWhileRunning
  deriving DecidableEq, Repr

/-- The FCODE value of a fault (60_exceptions.md R261). -/
def fcodeOf : FaultCode → BitVec 8
  | .illegalCommand => 0x01
  | .irqContext => 0x02
  | .initRepeated => 0x03
  | .notInitialized => 0x04
  | .startWhileRunning => 0x05

/-- raise Fault(code): the fault record and nothing else (60_exceptions.md R262). There is no vector, no handler and no
return: only reset leaves the faulted state (R265). -/
def raiseFault (code : FaultCode) (word : Word) (ctx : Ctx) (s : State) : State :=
  { s with fault := true, fcode := fcodeOf code, fword := word, fctx := ctx }

/-- The only way out of the faulted state: the system starts up again, and every piece of state takes its reset value
(60_exceptions.md R265, 70_reset_and_hazards.md R300, R301). The configuration is fixed for the lifetime of the hardware
(00_scope.md R7). No step does this. -/
def restart (s : State) : State := State.resetWith s.cfg

/-! ### When a step can be taken at all -/

/-- A step of any agent: refused when the configuration is ill-formed (00_scope.md R10), stuck when FAULT = 1
(60_exceptions.md R263), otherwise what the step does. -/
def whenLive (s : State) (k : Out) : Out :=
  if legal s.cfg then (if s.fault then .fault .halted else k) else .refused .illFormedConfig

end Sys2Proof.Machine
end

