-- ==== Sys2Proof/Machine/Operands.lean ====
section
/-! DEFINITION. The operand forms: channels and their bytes, the response word, the slot-to-bit map, the target buffer,
and the records a main command keeps of what is still to do. -/

namespace Sys2Proof.Machine

/-! ### Channels -/

/-- The channel a CH field names; CH = 3 names none (30_encoding.md R107). -/
def chanOfBits (ch : BitVec 2) : Option Chan :=
  if ch = 0#2 then some .g else if ch = 1#2 then some .r else if ch = 2#2 then some .b else none

/-- The CH field of a channel (30_encoding.md R107). -/
def chanBits : Chan → BitVec 2
  | .g => 0#2
  | .r => 1#2
  | .b => 2#2

/-- All three channels, in the storage order. -/
def allChans : List Chan := [.g, .r, .b]

/-- The byte a SET_PIXEL gives a channel: g for channel 0, r for 1, b for 2 (40_pixel_store.md R141). -/
def chanByte (g r b : Byte) : Chan → Byte
  | .g => g
  | .r => r
  | .b => b

/-- The whole pixel at once, as an IRQ SET_PIXEL writes it (40_pixel_store.md R140). -/
def writePixel (s : State) (i : Nat) (r g b : Byte) : State :=
  pxWrite (pxWrite (pxWrite s i .g g) i .r r) i .b b

/-! ### Sets of steps still to take -/

/-- pend without one element (40_pixel_store.md R141, R151, 42_transfer_controller.md R217). -/
def without {α : Type} [DecidableEq α] (pend : List α) (x : α) : List α := pend.filter (fun y => decide (y ≠ x))

/-- {(i, c) : 0 ≤ i < LED_COUNT, c in {0, 1, 2}} (42_transfer_controller.md R216), in index order. -/
def allPixelBytes (c : Config) : List (Nat × Chan) :=
  (List.range c.ledCount).flatMap (fun i => allChans.map (fun ch => (i, ch)))

/-- got with nothing read. -/
def gotNothing : Got := ⟨none, none, none⟩

/-- got[c] <- v (40_pixel_store.md R151). -/
def gotSet (got : Got) (c : Chan) (v : Byte) : Got :=
  match c with
  | .g => { got with g := some v }
  | .r => { got with r := some v }
  | .b => { got with b := some v }

/-! ### The response word (30_encoding.md R102) -/

/-- zext_32(1 ‖ r ‖ g ‖ b): VALID at bit 24, then the channels in logical order (40_pixel_store.md R150). -/
def respPixel (r g b : Byte) : Resp := 0#7 ++ 1#1 ++ r ++ g ++ b

/-- The response to an index out of range: VALID = 0 and every channel 0 (40_pixel_store.md R150). -/
def respInvalid : Resp := 0

/-- zext_32(1 ‖ got[1] ‖ got[0] ‖ got[2]), when all three are there (40_pixel_store.md R151). -/
def respGot (got : Got) : Option Resp :=
  match got.r, got.g, got.b with
  | some r, some g, some b => some (respPixel r g b)
  | _, _, _ => none

/-! ### The slot-to-bit map (00_scope.md R15, 41_encoder.md R171) -/

/-- Channel 0, 1 or 2; the quotient (w % 24) / 8 is never more. -/
def chanOfIndex (n : Nat) : Chan := if n = 0 then .g else if n = 1 then .r else .b

/-- i = w / 24. -/
def slotPixel (w : Nat) : Nat := w / 24

/-- c = (w % 24) / 8. -/
def slotChan (w : Nat) : Chan := chanOfIndex (w % 24 / 8)

/-- k = 7 − (w % 8): the most significant bit first. -/
def slotBit (w : Nat) : Nat := 7 - w % 8

/-! ### Buffers -/

/-- 1 − b. -/
def otherBuf : Buf → Buf
  | .b0 => .b1
  | .b1 => .b0

/-- target(): ACT, or 1 − ACT when DOUBLE_BUFFER = true (42_transfer_controller.md R213). -/
def target (s : State) : Buf := if s.cfg.doubleBuffer then otherBuf s.act else s.act

/-- The encode, stop and start phases keep the kind of the command they belong to (10_state.md R42). -/
def showKindOf : ClearKind → ShowKind
  | .forClear => .forClear
  | .forInit => .forInit

end Sys2Proof.Machine
end

