-- ==== Sys2Proof/Machine/Flags.lean ====
section
/-! DEFINITION. The flag and counter computations: TRUNC, SPLIT, XCUR and XCNT, and the acceptance checks of the two
contexts with INITED. -/

namespace Sys2Proof.Machine

/-- TRUNC after a stop of a RUNNING engine: set when fewer than BUFFER_SIZE slots were emitted since the start
(42_transfer_controller.md R225); sticky (10_state.md R40). -/
def truncAfterStop (s : State) : Bool := s.trunc || decide (s.xcnt.toNat < bufferSize s.cfg)

/-- SPLIT after a stop of a RUNNING engine: set when XCUR ≠ 0 (42_transfer_controller.md R225); sticky (10_state.md
R40). -/
def splitAfterStop (s : State) : Bool := s.split || decide (s.xcur ≠ 0)

/-- XCNT <- min(XCNT + 1, BUFFER_SIZE) (42_transfer_controller.md R230). -/
def xcntAfterEmit (s : State) : BitVec 25 := BitVec.ofNat 25 (min (s.xcnt.toNat + 1) (bufferSize s.cfg))

/-- This XFER_EMIT is not the last of a pass: XCUR + 1 < BUFFER_SIZE (42_transfer_controller.md R230). -/
def passContinues (s : State) : Bool := decide (s.xcur.toNat + 1 < bufferSize s.cfg)

/-- XCUR after an XFER_EMIT: the next slot, or 0 at the end of a pass (42_transfer_controller.md R230). -/
def xcurAfterEmit (s : State) : BitVec 24 := if passContinues s then s.xcur + 1 else 0

/-- The checks of MAIN acceptance after the illegal check, in their order; the first that applies is raised
(60_exceptions.md R271). -/
def mainCheck (i : Instr) (s : State) : Option FaultCode :=
  match i with
  | .init => if s.inited then some .initRepeated else none
  | .setPixel _ _ _ _ => if s.inited then none else some .notInitialized
  | .getPixel _ => none
  | .showFrame => if s.inited then none else some .notInitialized
  | .clear => if s.inited then none else some .notInitialized
  | .pxWrite _ _ _ => some .illegalCommand
  | .pxRead _ _ => some .illegalCommand
  | .encWrite _ _ => some .illegalCommand
  | .xferStop => some .illegalCommand
  | .xferStart _ => some .illegalCommand
  | .xferEmit => some .illegalCommand

/-- The checks of IRQ acceptance after the illegal check, in their order (60_exceptions.md R272). -/
def irqCheck (i : Instr) (s : State) : Option FaultCode :=
  match i with
  | .init => some .irqContext
  | .setPixel _ _ _ _ => if s.inited then none else some .notInitialized
  | .getPixel _ => none
  | .showFrame => some .irqContext
  | .clear => some .irqContext
  | .pxWrite _ _ _ => some .illegalCommand
  | .pxRead _ _ => some .illegalCommand
  | .encWrite _ _ => some .illegalCommand
  | .xferStop => some .illegalCommand
  | .xferStart _ => some .illegalCommand
  | .xferEmit => some .illegalCommand

/-- Acceptance of a command in both contexts (60_exceptions.md R271, R272). From MAIN it needs MAIN = IDLE; a check that
fails raises its fault with the issued word; otherwise the accepting step (MAIN) or the whole command (IRQ) is taken. -/
def accept (i : Instr) (s : State) (onMain onIrq : State) : Out :=
  whenLive s <|
    match s.portCtx with
    | .main =>
      match s.main with
      | .busy _ _ => .fault .mainBusy
      | .idle =>
        match mainCheck i s with
        | some code => .next (raiseFault code (encode i) .main s)
        | none => .next onMain
    | .irq =>
      match irqCheck i s with
      | some code => .next (raiseFault code (encode i) .irq s)
      | none => .next onIrq

end Sys2Proof.Machine
end

