-- ==== Sys2Proof/Machine/Encoder.lean ====
section
/-! DEFINITION. The waveform encoder: ENC_WRITE, and the encode as a function with its inverse (41_encoder.md R170 to
R186). -/

namespace Sys2Proof.Machine

/-- The code of one bit: PWM_ONE for a 1, PWM_ZERO for a 0 (R170, R171). -/
def bitCode (c : Config) (bit : Bool) : Slot := if bit then oneCode c else zeroCode c

/-- bit(PX[w / 24].ch((w % 24) / 8), 7 − (w % 8)): the colour bit a data slot carries (R171). -/
def pixelBit (s : State) (w : Nat) : Bool := (pxRead s (slotPixel w) (slotChan w)).getLsbD (slotBit w)

/-- Enc(PX)[w] (R180): the code of the bit of a data slot, 0 in a reset slot. -/
def encSlot (s : State) (w : Nat) : Slot :=
  if w < dataSlots s.cfg then bitCode s.cfg (pixelBit s w) else idleCode

/-- MAIN after ENC_WRITE of slot w: STOP when the encode is complete, else the next slot (R170, R174). -/
def afterEnc (c : Config) (word : Word) (kind : ShowKind) (T : Buf) (w : Nat) : MainRec :=
  if w + 1 = bufferSize c then .busy word (.stop kind T) else .busy word (.enc kind T (w + 1))

/-- ENC_WRITE(T, w): write slot w of buffer T (R170). -/
def execEncWrite (buf : Buf) (slot : BitVec 24) (s : State) : Out :=
  whenLive s <|
    match s.main with
    | .busy word (.enc kind T w) =>
      if T = buf ∧ w = slot.toNat ∧ w < bufferSize s.cfg then
        if hasBuffer s.cfg T then
          .next (setMain (afterEnc s.cfg word kind T w) (tbWrite s T w (encSlot s w)))
        else .fault .noSuchElement
      else .fault .notEnabled
    | .idle => .fault .notEnabled
    | .busy _ (.setp _ _ _ _ _) => .fault .notEnabled
    | .busy _ (.getp _ _ _) => .fault .notEnabled
    | .busy _ (.clr _ _) => .fault .notEnabled
    | .busy _ (.stop _ _) => .fault .notEnabled
    | .busy _ (.start _ _) => .fault .notEnabled

/-- The bit a data slot's code stands for (R183). -/
def codeBit (c : Config) (v : Slot) : Bool := decide (v = oneCode c)

/-- Every data slot of a buffer holds PWM_ZERO or PWM_ONE (R183). -/
def dataSlotsCoded (s : State) (b : Buf) : Bool :=
  (List.range (dataSlots s.cfg)).all (fun w => tbRead s b w == zeroCode s.cfg || tbRead s b w == oneCode s.cfg)

/-- Dec(X)[j] of a buffer: the sum over k in 0..7 of the bit of slot 8·j + k times 2^(7 − k) (R183). -/
def decByte (s : State) (b : Buf) (j : Nat) : Byte :=
  BitVec.ofNat 8 (((List.range 8).map (fun k => (codeBit s.cfg (tbRead s b (8 * j + k))).toNat <<< (7 - k))).sum)

/-- Dec(X): the 3·N bytes of a buffer, or no value when a data slot holds another code (R183). -/
def decBuffer (s : State) (b : Buf) : Option (List Byte) :=
  if dataSlotsCoded s b then some ((List.range (3 * s.cfg.ledCount)).map (decByte s b)) else none

end Sys2Proof.Machine
end

