-- ==== Sys2Proof/Machine/PixelStore.lean ====
section
/-! DEFINITION. The Pixel Store family: SET_PIXEL, GET_PIXEL, PX_WRITE, PX_READ (40_pixel_store.md R140 to R153). -/

namespace Sys2Proof.Machine

/-- The accepting step of a MAIN SET_PIXEL: MAIN <- SETP(i, g, r, b, {0, 1, 2}), or nothing when the index is out of range
(R140, R144). -/
def beginSetPixel (index : BitVec 16) (r g b : Byte) (s : State) : State :=
  if hasPixel s.cfg index.toNat then
    setMain (.busy (encode (.setPixel index r g b)) (.setp index g r b allChans)) s
  else s

/-- The whole of an IRQ SET_PIXEL, one indivisible step (R140). -/
def irqSetPixel (index : BitVec 16) (r g b : Byte) (s : State) : State :=
  if hasPixel s.cfg index.toNat then writePixel s index.toNat r g b else s

/-- SET_PIXEL: write one pixel, or do nothing when the index is out of range (R140, acceptance R271, R272). -/
def execSetPixel (index : BitVec 16) (r g b : Byte) (s : State) : Out :=
  accept (.setPixel index r g b) s (beginSetPixel index r g b s) (irqSetPixel index r g b s)

/-- The accepting step of a MAIN GET_PIXEL: MAIN <- GETP(i, {}, {0, 1, 2}), or the response 0 when the index is out of
range (R150). -/
def beginGetPixel (index : BitVec 16) (s : State) : State :=
  if hasPixel s.cfg index.toNat then
    setMain (.busy (encode (.getPixel index)) (.getp index gotNothing allChans)) s
  else respond .main respInvalid s

/-- The whole of an IRQ GET_PIXEL, one indivisible step (R150). -/
def irqGetPixel (index : BitVec 16) (s : State) : State :=
  if hasPixel s.cfg index.toNat then
    respond .irq (respPixel (pxRead s index.toNat .r) (pxRead s index.toNat .g) (pxRead s index.toNat .b)) s
  else respond .irq respInvalid s

/-- GET_PIXEL: read back one pixel; allowed in both contexts and before INIT (R150, acceptance R271, R272). -/
def execGetPixel (index : BitVec 16) (s : State) : Out :=
  accept (.getPixel index) s (beginGetPixel index s) (irqGetPixel index s)

/-- MAIN after the byte step that leaves `pend`: IDLE when nothing is left, in the same step (R141). -/
def afterSetp (word : Word) (index : BitVec 16) (g r b : Byte) (pend : List Chan) : MainRec :=
  if pend = [] then .idle else .busy word (.setp index g r b pend)

/-- MAIN after the zeroing step that leaves `pend`: ENC(kind, target(), 0) when nothing is left, in the same step
(42_transfer_controller.md R217). -/
def afterClr (s : State) (word : Word) (kind : ClearKind) (pend : List (Nat × Chan)) : MainRec :=
  if pend = [] then .busy word (.enc (showKindOf kind) (target s) 0) else .busy word (.clr kind pend)

/-- PX_WRITE(i, c, v): PxWrite(i, c, v), the only step that writes the Pixel Store (R142). While a SET_PIXEL is in
progress it is one of its pending bytes (R141), while a CLEAR or INIT is zeroing one of the pending zeros
(42_transfer_controller.md R217). Taken on its own, with no command in progress, it is the bare write of R142 (vector P-13
of 95_test_vectors.md); no step of the machine does that (`microTurn` in `Machine/Schedule.lean`, log entry 6). -/
def execPxWrite (index : BitVec 16) (ch : BitVec 2) (val : Byte) (s : State) : Out :=
  whenLive s <|
    match chanOfBits ch with
    | none => .fault .noSuchElement
    | some c =>
      if hasPixel s.cfg index.toNat then
        match s.main with
        | .idle => .next (pxWrite s index.toNat c val)
        | .busy word (.setp i g r b pend) =>
          if i = index ∧ c ∈ pend ∧ val = chanByte g r b c then
            .next (setMain (afterSetp word i g r b (without pend c)) (pxWrite s index.toNat c val))
          else .fault .notEnabled
        | .busy word (.clr kind pend) =>
          if (index.toNat, c) ∈ pend ∧ val = 0 then
            .next (setMain (afterClr s word kind (without pend (index.toNat, c))) (pxWrite s index.toNat c val))
          else .fault .notEnabled
        | .busy _ (.getp _ _ _) => .fault .notEnabled
        | .busy _ (.enc _ _ _) => .fault .notEnabled
        | .busy _ (.stop _ _) => .fault .notEnabled
        | .busy _ (.start _ _) => .fault .notEnabled
      else .fault .noSuchElement

/-- What a PX_READ that has recorded its byte does next: respond and return to IDLE in the step that empties `pend`, else
go on (R151). -/
def afterGetp (s : State) (word : Word) (index : BitVec 16) (got : Got) (pend : List Chan) : Out :=
  if pend = [] then
    match respGot got with
    | some w => .next (setMain .idle (respond .main w s))
    | none => .fault .malformedRecord
  else .next (setMain (.busy word (.getp index got pend)) s)

/-- PX_READ(i, c): records PxRead(i, c) as got[c] of the GETP in progress (R152, R151). -/
def execPxRead (index : BitVec 16) (ch : BitVec 2) (s : State) : Out :=
  whenLive s <|
    match chanOfBits ch with
    | none => .fault .noSuchElement
    | some c =>
      if hasPixel s.cfg index.toNat then
        match s.main with
        | .busy word (.getp i got pend) =>
          if i = index ∧ c ∈ pend then
            afterGetp s word i (gotSet got c (pxRead s index.toNat c)) (without pend c)
          else .fault .notEnabled
        | .idle => .fault .notEnabled
        | .busy _ (.setp _ _ _ _ _) => .fault .notEnabled
        | .busy _ (.clr _ _) => .fault .notEnabled
        | .busy _ (.enc _ _ _) => .fault .notEnabled
        | .busy _ (.stop _ _) => .fault .notEnabled
        | .busy _ (.start _ _) => .fault .notEnabled
      else .fault .noSuchElement

end Sys2Proof.Machine
end

