-- ==== Sys2Proof/Machine/Transfer.lean ====
section
/-! DEFINITION. The transfer controller and the output engine: INIT, SHOW, CLEAR, XFER_STOP, XFER_START, XFER_EMIT
(42_transfer_controller.md R210 to R235). -/

namespace Sys2Proof.Machine

/-- The accepting step of INIT: INITED <- 1, MAIN <- CLR(INIT, every byte) (R220). -/
def beginInit (s : State) : State :=
  setMain (.busy (encode .init) (.clr .forInit (allPixelBytes s.cfg))) { s with inited := true }

/-- INIT: one-time setup (R220). From IRQ it always raises IRQ_CONTEXT (60_exceptions.md R272), so the last argument, the
state of a whole IRQ command, is never taken. -/
def execInit (s : State) : Out := accept .init s (beginInit s) s

/-- The accepting step of SHOW: MAIN <- ENC(SHOW, target(), 0) (R212). -/
def beginShow (s : State) : State := setMain (.busy (encode .showFrame) (.enc .forShow (target s) 0)) s

/-- SHOW: encode the Pixel Store and restart the transfer (R212). From IRQ it always raises IRQ_CONTEXT. -/
def execShow (s : State) : Out := accept .showFrame s (beginShow s) s

/-- The accepting step of CLEAR: MAIN <- CLR(CLEAR, every byte) (R216). -/
def beginClear (s : State) : State :=
  setMain (.busy (encode .clear) (.clr .forClear (allPixelBytes s.cfg))) s

/-- CLEAR: zero every pixel, then show (R216). From IRQ it always raises IRQ_CONTEXT. -/
def execClear (s : State) : Out := accept .clear s (beginClear s) s

/-- fail_draw(): whether this stop or start takes no effect. Never with XFER_MAY_FAIL = false; a free value otherwise
(R229). -/
def failDraw (s : State) : Bool := s.cfg.xferMayFail && Config.failDraw s.draws

/-- A draw is made only when XFER_MAY_FAIL = true (R229). -/
def afterDraw (s : State) : State := if s.cfg.xferMayFail then draw s else s

/-- stopContinuousOutputTransfer() on a RUNNING engine: the two flags, STOPPED and HALT; XCUR and XCNT keep their values
(R225). -/
def stopEngine (s : State) : State :=
  emit .halt { s with trunc := truncAfterStop s, split := splitAfterStop s, xstate := .stopped }

/-- The engine's side of XFER_STOP: no effect on a STOPPED engine, and none when the stop fails (R225, R229). -/
def stopIfRunning (s : State) : State :=
  match s.xstate with
  | .stopped => s
  | .running => if failDraw s then afterDraw s else stopEngine (afterDraw s)

/-- XFER_STOP: stop the engine if it is running (R225). -/
def execXferStop (s : State) : Out :=
  whenLive s <|
    match s.main with
    | .busy word (.stop kind T) => .next (setMain (.busy word (.start kind T)) (stopIfRunning s))
    | .idle => .fault .notEnabled
    | .busy _ (.setp _ _ _ _ _) => .fault .notEnabled
    | .busy _ (.getp _ _ _) => .fault .notEnabled
    | .busy _ (.clr _ _) => .fault .notEnabled
    | .busy _ (.enc _ _ _) => .fault .notEnabled
    | .busy _ (.start _ _) => .fault .notEnabled

/-- startContinuousOutputTransfer(TB[T], BUFFER_SIZE): RUNNING on buffer T from slot 0 (R227). -/
def startEngine (T : Buf) (s : State) : State :=
  { s with xstate := .running, xbuf := T, xcur := 0, xcnt := 0, act := T }

/-- The engine's side of XFER_START on a STOPPED engine: none when the start fails (R227, R229). -/
def startOrFail (T : Buf) (s : State) : State :=
  if failDraw s then afterDraw s else startEngine T (afterDraw s)

/-- XFER_START(T): start a transfer over the whole buffer T; the SHOW, CLEAR or INIT returns (R227). -/
def execXferStart (buf : Buf) (s : State) : Out :=
  whenLive s <|
    match s.main with
    | .busy word (.start _ T) =>
      if T = buf then
        match s.xstate with
        | .running => .next (raiseFault .startWhileRunning word .main s)
        | .stopped => if hasBuffer s.cfg T then .next (setMain .idle (startOrFail T s)) else .fault .noSuchElement
      else .fault .notEnabled
    | .idle => .fault .notEnabled
    | .busy _ (.setp _ _ _ _ _) => .fault .notEnabled
    | .busy _ (.getp _ _ _) => .fault .notEnabled
    | .busy _ (.clr _ _) => .fault .notEnabled
    | .busy _ (.enc _ _ _) => .fault .notEnabled
    | .busy _ (.stop _ _) => .fault .notEnabled

/-- The end of a pass over the buffer: in one-shot mode the engine stops itself and emits HALT (R230, R231). -/
def endOfPass (s : State) : State :=
  match s.cfg.xferMode with
  | .circular => s
  | .oneShot => emit .halt { s with xstate := .stopped }

/-- The engine emits one slot: the code the slot holds at this step (20_memory.md R89), the counters, and the end of a
pass (R230). -/
def emitSlot (s : State) : State :=
  let t := emit (.slot (tbRead s s.xbuf s.xcur.toNat)) { s with xcnt := xcntAfterEmit s, xcur := xcurAfterEmit s }
  if passContinues s then t else endOfPass t

/-- XFER_EMIT: the engine's only step, enabled while RUNNING (R230). -/
def execXferEmit (s : State) : Out :=
  whenLive s <|
    match s.xstate with
    | .stopped => .fault .notEnabled
    | .running => if hasSlot s.cfg s.xbuf s.xcur.toNat then .next (emitSlot s) else .fault .noSuchElement

end Sys2Proof.Machine
end

