-- ==== Sys2Proof/Machine/Dispatch.lean ====
section
/-! DEFINITION. One arm per instruction, each a call of its meaning. -/

namespace Sys2Proof.Machine

def exec (i : Instr) (s : State) : Host.Outcome State Fault Refusal :=
  match i with
  -- the host's commands (30_encoding.md R104)
  | .init => Sys2Proof.Machine.execInit s
  | .setPixel index r g b => Sys2Proof.Machine.execSetPixel index r g b s
  | .getPixel index => Sys2Proof.Machine.execGetPixel index s
  | .showFrame => Sys2Proof.Machine.execShow s
  | .clear => Sys2Proof.Machine.execClear s
  -- the block's micro-steps (30_encoding.md R107)
  | .pxWrite index ch val => Sys2Proof.Machine.execPxWrite index ch val s
  | .pxRead index ch => Sys2Proof.Machine.execPxRead index ch s
  | .encWrite buf slot => Sys2Proof.Machine.execEncWrite buf slot s
  | .xferStop => Sys2Proof.Machine.execXferStop s
  | .xferStart buf => Sys2Proof.Machine.execXferStart buf s
  | .xferEmit => Sys2Proof.Machine.execXferEmit s

end Sys2Proof.Machine
end

