-- ==== Sys2Proof/Machine/Schedule.lean ====
section
/-! DEFINITION. Whose step is next: the steps of the three agents (20_memory.md R84), the acceptance of a word at the
command port (60_exceptions.md R271, R272), the micro-steps that are enabled, and how an instruction comes to be the next
one. -/

namespace Sys2Proof.Machine

/-- A micro-step that some agent may take now, as far as the agent goes: MAIN's only while a command is in progress
(R84); XFER_EMIT is the engine's, whose own meaning asks for RUNNING. A command is no micro-step. -/
def microTurn (i : Instr) (s : State) : Bool :=
  match i with
  | .xferEmit => true
  | .pxWrite _ _ _ => decide (s.main ≠ .idle)
  | .pxRead _ _ => decide (s.main ≠ .idle)
  | .encWrite _ _ => decide (s.main ≠ .idle)
  | .xferStop => decide (s.main ≠ .idle)
  | .xferStart _ => decide (s.main ≠ .idle)
  | .init => false
  | .setPixel _ _ _ _ => false
  | .getPixel _ => false
  | .showFrame => false
  | .clear => false

/-- The context of the word at the port. -/
def atPort (ctx : Ctx) (s : State) : State := { s with portCtx := ctx }

/-- A word that decodes as ILLEGAL raises ILLEGAL_COMMAND with the issued word, before every other check (60_exceptions.md
R261, R271, R272); MAIN issues only when MAIN = IDLE. -/
def illegalWord (w : Word) (ctx : Ctx) (s : State) : Out :=
  match ctx, s.main with
  | .main, .busy _ _ => .fault .mainBusy
  | .main, .idle => .next (raiseFault .illegalCommand w .main s)
  | .irq, _ => .next (raiseFault .illegalCommand w .irq s)

/-- A context issues a word at the command port: the block decodes it and runs the command (R271, R272). -/
def issueWord (ctx : Ctx) (w : Word) (s : State) : Out :=
  match decodePort w with
  | some i => exec i (atPort ctx s)
  | none => illegalWord w ctx (atPort ctx s)

/-- The block takes the micro-step a MICRO word names, when it is some agent's turn to take it (30_encoding.md R107,
20_memory.md R84). -/
def takeMicro (w : Word) (s : State) : Out :=
  match decodeMicro w with
  | .error _ => .fault .noSuchMicroStep
  | .ok i => if microTurn i s then exec i s else .fault .notEnabled

/-- One named step. -/
def takeTurn (t : Turn) (s : State) : Out :=
  match t with
  | .issue ctx w => issueWord ctx w s
  | .micro w => takeMicro w s

/-- The micro-steps MAIN may take next: every pending one where the rule leaves the order open (20_memory.md R85,
40_pixel_store.md R141, R151, 42_transfer_controller.md R217). -/
def mainMicros (s : State) : List Instr :=
  match s.main with
  | .idle => []
  | .busy _ (.setp i g r b pend) => pend.map (fun c => .pxWrite i (chanBits c) (chanByte g r b c))
  | .busy _ (.getp i _ pend) => pend.map (fun c => .pxRead i (chanBits c))
  | .busy _ (.clr _ pend) => pend.map (fun e => .pxWrite (BitVec.ofNat 16 e.1) (chanBits e.2) 0)
  | .busy _ (.enc _ T w) => [.encWrite T (BitVec.ofNat 24 w)]
  | .busy _ (.stop _ _) => [.xferStop]
  | .busy _ (.start _ T) => [.xferStart T]

/-- The engine's step, enabled while RUNNING (42_transfer_controller.md R230). -/
def engineMicros (s : State) : List Instr :=
  match s.xstate with
  | .stopped => []
  | .running => [.xferEmit]

/-- The micro-steps that are enabled. -/
def enabledMicros (s : State) : List Instr := mainMicros s ++ engineMicros s

/-- The micro-step the block takes when no step is named: the enabled one, the choice among several being a free value
("any one of them may be taken", R84); none when none is enabled. -/
def freeMicro (s : State) : Option Instr :=
  match enabledMicros s with
  | [] => none
  | [i] => some i
  | i :: is => some ((i :: is).getD (Config.freeTurn s.draws % (is.length + 1)) i)

/-- A free value is drawn only for a choice among several. -/
def afterPick (s : State) : State :=
  match enabledMicros s with
  | [] => s
  | [_] => s
  | _ :: _ :: _ => draw s

/-- The block by itself, with no step named; with no micro-step enabled it waits for the host's next command
(70_reset_and_hazards.md R301). -/
def freeRun (s : State) : Out :=
  match freeMicro s with
  | none => .next s
  | some i => exec i (afterPick s)

/-- The micro-step a named step is, if it is one. -/
def turnMicro (t : Turn) : Option Instr :=
  match t with
  | .issue _ _ => none
  | .micro w =>
    match decodeMicro w with
    | .ok i => some i
    | .error _ => none

/-- The micro-step that the step from a state takes, if it takes one: what weak fairness is said of
(70_reset_and_hazards.md R330). -/
def microTaken (s : State) : Option Instr :=
  match s.agenda with
  | t :: _ => turnMicro t
  | [] => freeMicro s

/-- One step of the machine: the step the agenda names, or the block by itself. Nothing moves when FAULT = 1
(60_exceptions.md R263). -/
def stepOnce (s : State) : Out :=
  whenLive s <|
    match s.agenda with
    | t :: rest => takeTurn t { s with agenda := rest }
    | [] => freeRun s

/-! ### Placing an instruction where the next step takes it -/

/-- The turn that runs an instruction's word: a micro-step for a MICRO word, else the word issued by MAIN. -/
def turnOf (w : Word) : Turn :=
  match findRow microRows w with
  | some _ => .micro w
  | none => .issue .main w

/-- The block at the point where an instruction is the next one: IDLE for a command of MAIN, the command's record for a
micro-step of MAIN (the record its accepting step makes, at this micro-step), RUNNING for XFER_EMIT. -/
def readyFor (i : Instr) (s : State) : State :=
  match i with
  | .init => setMain .idle s
  | .setPixel _ _ _ _ => setMain .idle s
  | .getPixel _ => setMain .idle s
  | .showFrame => setMain .idle s
  | .clear => setMain .idle s
  | .pxWrite index ch val =>
    let byte (c : Chan) : Byte := if chanBits c = ch then val else 0
    setMain (.busy (encode (.setPixel index (byte .r) (byte .g) (byte .b)))
      (.setp index (byte .g) (byte .r) (byte .b) allChans)) s
  | .pxRead index _ => setMain (.busy (encode (.getPixel index)) (.getp index gotNothing allChans)) s
  | .encWrite buf slot => setMain (.busy (encode .showFrame) (.enc .forShow buf slot.toNat)) s
  | .xferStop => setMain (.busy (encode .showFrame) (.stop .forShow (target s))) s
  | .xferStart buf => setMain (.busy (encode .showFrame) (.start .forShow buf)) { s with xstate := .stopped }
  | .xferEmit => { s with xstate := .running }

/-- The word of an instruction put where the next step takes it: first in the agenda, with the block ready for it. -/
def placeWord (s : State) (w : Word) : State :=
  match decode w with
  | .ok i => { readyFor i s with agenda := turnOf w :: s.agenda }
  | .error _ => { setMain .idle s with agenda := turnOf w :: s.agenda }

end Sys2Proof.Machine
end

