-- ==== Sys2Proof/Machine/Step.lean ====
section
/-! DEFINITION. One step of the machine, and how an instruction comes to be the next one. -/

namespace Sys2Proof.Machine

/-- One step of one agent (20_memory.md R84), as `stepOnce` in `Machine/Schedule.lean` gives it. -/
def step (s : State) : Host.Outcome State Fault Refusal := stepOnce s

/-- The state with an instruction's word placed so that the very next step runs that instruction. The block fetches
nothing from memory (20_memory.md R92): a command arrives at the port, a micro-step is the block's own next step; see
`placeWord` and log entry 2. -/
def State.withFetchWord (s : State) (nbits w : Nat) : State :=
  if nbits ≤ 64 then placeWord s (BitVec.ofNat 64 w) else s

end Sys2Proof.Machine
end

