-- ==== Sys2Proof/Machine/Line.lean ====
section
/-! DEFINITION. What the line carries: the meaning of a slot and of a stopped engine on the output line (10_state.md R43,
R47). No step depends on it (R47). -/

namespace Sys2Proof.Machine

/-- A stretch of the output line: one slot period, tick by tick, or the line held for a duration the spec does not fix
(R43). -/
inductive LineStretch where
  | period (levels : List LineLevel)
  | held (level : LineLevel)
  deriving DecidableEq, Repr

/-- One PWM period of PWM_PERIOD_TICKS ticks: high for the first c ticks and low for the rest; c = 0 is no pulse (R47). -/
def slotLevels (c : Config) (code : Slot) : List LineLevel :=
  (List.range c.periodTicks).map (fun tick => if tick < code.toNat then .active else .idle)

/-- The stretch of line an event stands for: a period, or the line held at STOPPED_LINE (R43). -/
def stretchOf (c : Config) (e : LineEvent) : LineStretch :=
  match e with
  | .slot code => .period (slotLevels c code)
  | .halt => .held c.stoppedLine

/-- The line as a probe sees it (60_exceptions.md R284): held at STOPPED_LINE before the first start
(70_reset_and_hazards.md R302), then the events of TRACE in order. -/
def lineOf (s : State) : List LineStretch := .held s.cfg.stoppedLine :: s.trace.map (stretchOf s.cfg)

end Sys2Proof.Machine
end

