-- ==== Sys2Proof/Safety.lean ====
section
/-! DEFINITION. The terms claims are stated in: when a command or a micro-step finds the block ready, what stays the same,
host-idle states and the end of a run, and the invariants of the block. -/

namespace Sys2Proof.Machine

/-! ### Readiness -/

/-- A legal configuration and no fault recorded: the block can take steps at all (00_scope.md R10, 60_exceptions.md
R263). -/
abbrev Live (s : State) : Prop := legal s.cfg = true ∧ s.fault = false

/-- MAIN may issue a command (60_exceptions.md R271). -/
abbrev AtMain (s : State) : Prop := Live s ∧ s.portCtx = .main ∧ s.main = .idle

/-- IRQ issues the command at the port (60_exceptions.md R272). -/
abbrev AtIrq (s : State) : Prop := Live s ∧ s.portCtx = .irq

/-! ### What stays the same -/

/-- The Pixel Store is unchanged. -/
abbrev SamePixels (s t : State) : Prop := t.px = s.px

/-- Both timing buffers are unchanged. -/
abbrev SameBuffers (s t : State) : Prop := t.tb0 = s.tb0 ∧ t.tb1 = s.tb1

/-- The transfer state is unchanged: XSTATE, XBUF, XCUR, XCNT, ACT. -/
abbrev SameEngine (s t : State) : Prop :=
  t.xstate = s.xstate ∧ t.xbuf = s.xbuf ∧ t.xcur = s.xcur ∧ t.xcnt = s.xcnt ∧ t.act = s.act

/-- INITED, TRUNC and SPLIT are unchanged. -/
abbrev SameFlags (s t : State) : Prop := t.inited = s.inited ∧ t.trunc = s.trunc ∧ t.split = s.split

/-- The fault record is unchanged. -/
abbrev SameFault (s t : State) : Prop :=
  t.fault = s.fault ∧ t.fcode = s.fcode ∧ t.fword = s.fword ∧ t.fctx = s.fctx

/-- TRACE and OUT are unchanged. -/
abbrev SameLogs (s t : State) : Prop := t.trace = s.trace ∧ t.out = s.out

/-- The configuration and the model's own fields other than the free-value counter are unchanged. -/
abbrev SameModel (s t : State) : Prop := t.cfg = s.cfg ∧ t.agenda = s.agenda ∧ t.portCtx = s.portCtx

/-- Everything but the Pixel Store, MAIN and OUT is unchanged: the frame of the Pixel Store commands. -/
abbrev PixelFrame (s t : State) : Prop :=
  SameBuffers s t ∧ SameEngine s t ∧ SameFlags s t ∧ SameFault s t ∧ t.trace = s.trace ∧ SameModel s t ∧
    t.draws = s.draws

/-! ### Runs -/

/-- A host-idle state (10_state.md R45). -/
abbrev HostIdle (s : State) : Prop := s.main = .idle

/-- A run may end here: host-idle with FAULT = 0 (70_reset_and_hazards.md R331). -/
abbrev RunMayEnd (s : State) : Prop := HostIdle s ∧ s.fault = false

/-- The premise of a claim that every shown frame reached the line whole (70_reset_and_hazards.md R320). -/
abbrev FramesWhole (s : State) : Prop := s.trunc = false

/-- The premise of a claim about what the LEDs show right after a SHOW (70_reset_and_hazards.md R321). -/
abbrev NoPassCut (s : State) : Prop := s.split = false

/-- An unending run (20_memory.md R84): each state steps to the next, and between two steps the agents' next steps may be
named anew, so that every interleaving and every command the host may issue is some run. A state with FAULT = 1 has no step,
so a faulted run ends and is none of these. -/
abbrev RunOf (run : Nat → State) : Prop :=
  ∀ n, ∃ t agenda, step (run n) = .next t ∧ run (n + 1) = { t with agenda := agenda }

/-- Weak fairness (70_reset_and_hazards.md R330): a MAIN micro-step that stays enabled is eventually taken, and an XFER_EMIT
that stays enabled is eventually taken. Acceptance by MAIN and IRQ carries none. A liveness claim takes this as a premise. -/
structure WeaklyFair (run : Nat → State) : Prop where
  main : ∀ n, (∀ m ≥ n, mainMicros (run m) ≠ []) → ∃ m ≥ n, ∃ i ∈ mainMicros (run m), microTaken (run m) = some i
  engine : ∀ n, (∀ m ≥ n, engineMicros (run m) ≠ []) → ∃ m ≥ n, microTaken (run m) = some .xferEmit

/-- Some instructions one after the other, with no other step between them; it ends early where one has no next state. -/
def execAll : List Instr → State → Out
  | [], s => .next s
  | i :: is, s =>
    match exec i s with
    | .next t => execAll is t
    | .fault f => .fault f
    | .refused r => .refused r

/-- The PX_WRITEs of a SET_PIXEL, its channels in a given order (40_pixel_store.md R141). -/
def setPixelMicros (index : BitVec 16) (r g b : Byte) (order : List Chan) : List Instr :=
  order.map (fun c => .pxWrite index (chanBits c) (chanByte g r b c))

/-- The PX_READs of a GET_PIXEL, its channels in a given order (40_pixel_store.md R151). -/
def getPixelMicros (index : BitVec 16) (order : List Chan) : List Instr :=
  order.map (fun c => .pxRead index (chanBits c))

/-- The PX_WRITEs of a zeroing phase, its bytes in a given order (42_transfer_controller.md R217). -/
def zeroingMicros (order : List (Nat × Chan)) : List Instr :=
  order.map (fun e => .pxWrite (BitVec.ofNat 16 e.1) (chanBits e.2) 0)

/-- ENC_WRITE(T, 0) to ENC_WRITE(T, BUFFER_SIZE − 1) (42_transfer_controller.md R212). -/
def encodeMicros (c : Config) (T : Buf) : List Instr :=
  (List.range (bufferSize c)).map (fun w => .encWrite T (BitVec.ofNat 24 w))

/-! ### The invariants of the block -/

/-- The stores are canonical arrays of the configured size, and there is no second buffer without DOUBLE_BUFFER
(10_state.md R31, R32). -/
abbrev StoresOk (s : State) : Prop :=
  (cellsWf s.px = true ∧ cellsBelow (3 * s.cfg.ledCount) s.px = true) ∧
  (cellsWf s.tb0 = true ∧ cellsBelow (bufferSize s.cfg) s.tb0 = true) ∧
  (cellsWf s.tb1 = true ∧ cellsBelow (bufferSize s.cfg) s.tb1 = true) ∧
  (s.cfg.doubleBuffer = false → s.tb1 = [])

/-- XCUR < BUFFER_SIZE and XCNT ≤ BUFFER_SIZE (10_state.md R36, R37). -/
abbrev CountersOk (s : State) : Prop := s.xcur.toNat < bufferSize s.cfg ∧ s.xcnt.toNat ≤ bufferSize s.cfg

/-- While RUNNING, XBUF = ACT (42_transfer_controller.md R234), and both are 0 when there is one buffer (10_state.md R35,
R38). -/
abbrev BufferNumbersOk (s : State) : Prop :=
  (s.xstate = .running → s.xbuf = s.act) ∧ (s.cfg.doubleBuffer = false → s.act = .b0 ∧ s.xbuf = .b0)

/-- The fault record is clear, or holds a code 0x01 to 0x05 (60_exceptions.md R261). -/
abbrev RecordOk (s : State) : Prop :=
  (s.fault = false → s.fcode = 0 ∧ s.fword = 0 ∧ s.fctx = .main) ∧
  (s.fault = true → 1 ≤ s.fcode.toNat ∧ s.fcode.toNat ≤ 5)

/-- The command word of a phase's kind. -/
def kindWord : ShowKind → Word
  | .forShow => encode .showFrame
  | .forClear => encode .clear
  | .forInit => encode .init

/-- A byte is there for every channel that is no longer pending (40_pixel_store.md R151). -/
abbrev GotOk (got : Got) (pend : List Chan) : Prop :=
  (got.g.isSome = true ∨ .g ∈ pend) ∧ (got.r.isSome = true ∨ .r ∈ pend) ∧ (got.b.isSome = true ∨ .b ∈ pend)

/-- The ranges of the record of a command in progress, with its word (10_state.md R42), its target buffer
(42_transfer_controller.md R213), and INITED for every command that needs it (60_exceptions.md R271). -/
def PhaseOk (s : State) (word : Word) : Phase → Prop
  | .setp i g r b pend =>
    hasPixel s.cfg i.toNat = true ∧ pend ≠ [] ∧ pend.Sublist allChans ∧ word = encode (.setPixel i r g b) ∧ s.inited = true
  | .getp i got pend =>
    hasPixel s.cfg i.toNat = true ∧ pend ≠ [] ∧ pend.Sublist allChans ∧ word = encode (.getPixel i) ∧ GotOk got pend
  | .clr kind pend =>
    pend ≠ [] ∧ pend.Sublist (allPixelBytes s.cfg) ∧ word = kindWord (showKindOf kind) ∧ s.inited = true
  | .enc kind T w => T = target s ∧ w < bufferSize s.cfg ∧ word = kindWord kind ∧ s.inited = true
  | .stop kind T => T = target s ∧ word = kindWord kind ∧ s.inited = true
  | .start kind T =>
    T = target s ∧ word = kindWord kind ∧ s.inited = true ∧ (s.cfg.xferMayFail = false → s.xstate = .stopped)

/-- MAIN's record is in range. -/
def MainOk (s : State) : Prop :=
  match s.main with
  | .idle => True
  | .busy word ph => PhaseOk s word ph

/-- The block's invariant: what the ranges of 10_state.md and the derived rules of 42_transfer_controller.md say of every
state a run reaches. -/
structure BlockInv (s : State) : Prop where
  legalConfig : legal s.cfg = true
  stores : StoresOk s
  counters : CountersOk s
  bufferNumbers : BufferNumbersOk s
  record : RecordOk s
  mainRecord : MainOk s

/-- With XFER_MAY_FAIL = false the fault record does not hold START_WHILE_RUNNING (42_transfer_controller.md R227). -/
abbrev NoStartFault (s : State) : Prop := s.cfg.xferMayFail = false → s.fcode ≠ fcodeOf .startWhileRunning

/-- Slot w holds what an encode may leave there: PWM_ZERO or PWM_ONE in a data slot, 0 in a reset slot (10_state.md
R33). -/
abbrev SlotCoded (s : State) (b : Buf) (w : Nat) : Prop :=
  if w < dataSlots s.cfg then tbRead s b w = zeroCode s.cfg ∨ tbRead s b w = oneCode s.cfg else tbRead s b w = idleCode

/-- Every slot of a buffer holds what a completed encode leaves (10_state.md R33). -/
abbrev BufferCoded (s : State) (b : Buf) : Prop := ∀ w < bufferSize s.cfg, SlotCoded s b w

/-- A buffer an encode has completed into is the one the engine reads; the part of a buffer that the encode in progress
has written is coded (10_state.md R33, 42_transfer_controller.md R230). -/
def EncodeOk (s : State) : Prop :=
  match s.main with
  | .busy _ (.enc _ T w) => ∀ v < w, SlotCoded s T v
  | .busy _ (.stop _ T) => BufferCoded s T
  | .busy _ (.start _ T) => BufferCoded s T
  | .busy _ (.setp _ _ _ _ _) => True
  | .busy _ (.getp _ _ _) => True
  | .busy _ (.clr _ _) => True
  | .idle => True

/-- A line event carries one of the three codes, or is HALT (41_encoder.md R186). -/
abbrev EventOk (c : Config) : LineEvent → Prop
  | .slot code => code = zeroCode c ∨ code = oneCode c ∨ code = idleCode
  | .halt => True

/-- The line invariant: the engine reads an encoded buffer, and the line has carried only PWM_ZERO, PWM_ONE and idle
codes. -/
structure LineInv (s : State) : Prop where
  readsCoded : s.xstate = .running → BufferCoded s s.xbuf
  encode : EncodeOk s
  trace : ∀ e ∈ s.trace, EventOk s.cfg e

end Sys2Proof.Machine
end

