-- ==== Sys2Proof/Certificates/Slice0/Obligations.lean ====
section
/-! DEFINITION. The statements about the machine, from the numbered rules of spec/. -/

open Sys2Proof Sys2Proof.Machine

/-! ### Encoding -/

/-- 30_encoding.md R101, R103, R107: no operand bit is dropped. The word of a well-formed instruction decodes to it. -/
def Obligations.DecodeInvertsEncode : Prop :=
  ∀ i : Instr, i.wellFormed = true → decode (encode i) = .ok i

/-- 30_encoding.md R104, R105, R106: the command port reads exactly the words of the five commands. Every other word, a
MICRO word and a word with a non-zero reserved field among them, is ILLEGAL (`none`). -/
def Obligations.PortReadsExactlyTheCommandWords : Prop :=
  ∀ (w : Word) (i : Instr), decodePort w = some i ↔ (i.isCommand = true ∧ encode i = w)

/-- 30_encoding.md R107: the MICRO words name exactly the micro-steps, CH = 3 excepted. -/
def Obligations.MicroWordsNameExactlyTheMicroSteps : Prop :=
  ∀ (w : Word) (i : Instr),
    decodeMicro w = .ok i ↔ (i.isCommand = false ∧ i.wellFormed = true ∧ encode i = w)

/-- 30_encoding.md R105, said of all eleven rows: at most one row matches a word. -/
def Obligations.AtMostOneRowMatches : Prop :=
  ∀ (w : Word) (p q : Row), p.hits w = true → q.hits w = true → p = q

/-- 30_encoding.md R105 with the match and mask pairs of R104: a word that spells a row decodes to the row's command with
its fields, a word that spells none is ILLEGAL (`none`), and no word spells two rows. -/
def Obligations.PortDecodesByTheTable : Prop :=
  ∀ w : Word,
    (w &&& 0xFFFFFFFFFFFFFFFF = 0x0100000000000000 → decodePort w = some .init) ∧
    (w &&& 0xFFFF0000FF000000 = 0x0200000000000000 → decodePort w =
      some (.setPixel (w.extractLsb' 32 16) (w.extractLsb' 16 8) (w.extractLsb' 8 8) (w.extractLsb' 0 8))) ∧
    (w &&& 0xFFFF0000FFFFFFFF = 0x0300000000000000 → decodePort w = some (.getPixel (w.extractLsb' 32 16))) ∧
    (w &&& 0xFFFFFFFFFFFFFFFF = 0x0400000000000000 → decodePort w = some .showFrame) ∧
    (w &&& 0xFFFFFFFFFFFFFFFF = 0x0500000000000000 → decodePort w = some .clear) ∧
    ((∀ r ∈ [Row.init, .setPixel, .getPixel, .showFrame, .clear], r.hits w = false) → decodePort w = none) ∧
    (∀ p ∈ cmdRows, ∀ q ∈ cmdRows, p.hits w = true → q.hits w = true → p = q)

/-- 95_test_vectors.md E-1 to E-6, E-11, E-16, U-1 to U-5, U-7, U-8: words the spec writes out. -/
def Obligations.SpecWordsDecode : Prop :=
  decodePort 0x0100000000000000 = some .init ∧
  decodePort 0x0200000100FF8001 = some (.setPixel 1 0xFF 0x80 0x01) ∧
  decodePort 0x0200FFFF00FFFFFF = some (.setPixel 65535 0xFF 0xFF 0xFF) ∧
  decodePort 0x0300000100000000 = some (.getPixel 1) ∧
  decodePort 0x0400000000000000 = some .showFrame ∧
  decodePort 0x0500000000000000 = some .clear ∧
  decodePort 0x0401000000000000 = none ∧
  decodePort 0x0300000000000001 = none ∧
  decodeMicro 0x800000010200007F = .ok (.pxWrite 1 2 0x7F) ∧
  decodeMicro 0x8100000001000000 = .ok (.pxRead 0 1) ∧
  decodeMicro 0x820000000F000000 = .ok (.encWrite .b0 15) ∧
  decodeMicro 0x8201000032000000 = .ok (.encWrite .b1 50) ∧
  decodeMicro 0x8300000000000000 = .ok .xferStop ∧
  decodeMicro 0x8401000000000000 = .ok (.xferStart .b1) ∧
  decodeMicro 0x8500000000000000 = .ok .xferEmit

/-! ### The step -/

/-- 60_exceptions.md R271, R272: a step that a context's command begins is the command's meaning, in that context. The
agenda and `portCtx` are the model's own (log entries 2, 3). -/
def Obligations.StepRunsTheIssuedCommand : Prop :=
  ∀ (s : State) (ctx : Ctx) (w : Word) (rest : List Turn) (i : Instr),
    Live s → s.agenda = .issue ctx w :: rest → decodePort w = some i →
      step s = exec i { s with agenda := rest, portCtx := ctx }

/-- 20_memory.md R84: a micro-step of MAIN is taken only while a command is in progress, XFER_EMIT at any time it is
enabled; the step is the micro-step's meaning. The agenda is the model's own (log entry 2). -/
def Obligations.StepRunsTheNamedMicroStep : Prop :=
  ∀ (s : State) (w : Word) (rest : List Turn) (i : Instr),
    Live s → s.agenda = .micro w :: rest → decodeMicro w = .ok i →
      step s = if i = .xferEmit ∨ s.main ≠ .idle then exec i { s with agenda := rest } else .fault .notEnabled

/-- A placed word is the next instruction, and it meets the block ready for it: `readyFor` is the model's account of that
(log entry 2), with the word of a command issued by MAIN. Placing a word changes no store, flag, fault record or log. -/
def Obligations.StepRunsThePlacedInstruction : Prop :=
  ∀ (s : State) (i : Instr), Live s → i.wellFormed = true →
    step (s.withFetchWord 64 (encode i).toNat) =
      exec i (if i.isCommand then { readyFor i s with portCtx := .main } else readyFor i s) ∧
    (i.isCommand = true → (readyFor i s).main = .idle) ∧
    SamePixels s (readyFor i s) ∧ SameBuffers s (readyFor i s) ∧ SameFlags s (readyFor i s) ∧
    SameFault s (readyFor i s) ∧ SameLogs s (readyFor i s) ∧ SameModel s (readyFor i s)

/-- 20_memory.md R84, R85: with no step named, the block takes an enabled micro-step (the model's own free choice among
them, log entry 4). -/
def Obligations.FreeRunTakesAnEnabledMicroStep : Prop :=
  ∀ s : State, Live s → s.agenda = [] → enabledMicros s ≠ [] →
    ∃ i ∈ enabledMicros s, step s = exec i s ∨ step s = exec i { s with draws := s.draws + 1 }

/-- 70_reset_and_hazards.md R301: with no command issued, none in progress and the engine STOPPED, the block waits. That
the wait is a step that changes nothing is the model's choice (log entry 2). -/
def Obligations.IdleBlockWaitsForTheHost : Prop :=
  ∀ s : State, Live s → s.agenda = [] → s.main = .idle → s.xstate = .stopped → step s = .next s

/-- 60_exceptions.md R263: when FAULT = 1 no agent has an enabled step, whatever the agenda names and whether or not the
engine is RUNNING, so that no step clears the record, which a restart does; the state is no successful end of a run. -/
def Obligations.FaultedStateHasNoStep : Prop :=
  ∀ (s : State) (i : Instr), legal s.cfg = true → s.fault = true →
    step s = .fault .halted ∧ exec i s = .fault .halted ∧ ¬ RunMayEnd s ∧
      (restart s).fault = false ∧ (restart s).fcode = 0 ∧ (restart s).fword = 0 ∧ (restart s).fctx = .main

/-- 00_scope.md R10: a configuration that breaks one of the constraints on the duty-cycle codes is refused, and so is one
outside the ranges of R8. -/
def Obligations.IllFormedConfigurationIsRefused : Prop :=
  ∀ (s : State) (i : Instr),
    (s.cfg.pwmZero = s.cfg.pwmOne ∨ s.cfg.pwmZero = 0 ∨ s.cfg.pwmOne = 0 ∨
      2 ^ slotBits s.cfg.slotWidth ≤ s.cfg.pwmZero ∨ 2 ^ slotBits s.cfg.slotWidth ≤ s.cfg.pwmOne ∨
      s.cfg.periodTicks < s.cfg.pwmZero ∨ s.cfg.periodTicks < s.cfg.pwmOne ∨ s.cfg.pwmOne ≤ s.cfg.pwmZero ∨
      s.cfg.ledCount = 0 ∨ 65535 < s.cfg.ledCount ∨ s.cfg.resetSlots = 0 ∨
      2 ^ 24 < 24 * s.cfg.ledCount + s.cfg.resetSlots ∨ s.cfg.periodTicks = 0) →
    step s = .refused .illFormedConfig ∧ exec i s = .refused .illFormedConfig

/-! ### Acceptance and faults -/

/-- 30_encoding.md R106, 60_exceptions.md R261, R262: a word that decodes as ILLEGAL raises ILLEGAL_COMMAND in the context
that issues it, with the issued word, and changes nothing but the fault record (and the model's agenda and port). -/
def Obligations.IllegalWordIsRecorded : Prop :=
  ∀ (s : State) (ctx : Ctx) (w : Word) (rest : List Turn),
    Live s → s.agenda = .issue ctx w :: rest → decodePort w = none → (ctx = .main → s.main = .idle) →
      step s = .next { s with agenda := rest, portCtx := ctx, fault := true, fcode := 0x01, fword := w, fctx := ctx }

/-- 60_exceptions.md R271: the checks of MAIN acceptance, in their order. INIT after INIT raises INIT_REPEATED;
SET_PIXEL (in range or not), SHOW and CLEAR before INIT raise NOT_INITIALIZED; nothing but the record changes (R262). -/
def Obligations.MainAcceptanceFaults : Prop :=
  ∀ s : State, AtMain s →
    (s.inited = true →
      exec .init s = .next { s with fault := true, fcode := 0x03, fword := 0x0100000000000000, fctx := .main }) ∧
    (s.inited = false →
      exec .showFrame s = .next { s with fault := true, fcode := 0x04, fword := 0x0400000000000000, fctx := .main } ∧
      exec .clear s = .next { s with fault := true, fcode := 0x04, fword := 0x0500000000000000, fctx := .main } ∧
      ∀ index r g b, exec (.setPixel index r g b) s =
        .next { s with fault := true, fcode := 0x04, fword := encode (.setPixel index r g b), fctx := .main })

/-- 60_exceptions.md R272: the checks of IRQ acceptance, in their order. INIT, SHOW and CLEAR raise IRQ_CONTEXT, whatever
INITED is; SET_PIXEL before INIT raises NOT_INITIALIZED; nothing but the record changes (R262). -/
def Obligations.IrqAcceptanceFaults : Prop :=
  ∀ s : State, AtIrq s →
    exec .init s = .next { s with fault := true, fcode := 0x02, fword := 0x0100000000000000, fctx := .irq } ∧
    exec .showFrame s = .next { s with fault := true, fcode := 0x02, fword := 0x0400000000000000, fctx := .irq } ∧
    exec .clear s = .next { s with fault := true, fcode := 0x02, fword := 0x0500000000000000, fctx := .irq } ∧
    (s.inited = false → ∀ index r g b, exec (.setPixel index r g b) s =
      .next { s with fault := true, fcode := 0x04, fword := encode (.setPixel index r g b), fctx := .irq })

/-- 60_exceptions.md R271, 93_implementation_defined.md U13: MAIN may issue only when MAIN = IDLE. -/
def Obligations.BusyMainHasNoMove : Prop :=
  ∀ (s : State) (i : Instr), Live s → s.portCtx = .main → s.main ≠ .idle → i.isCommand = true →
    exec i s = .fault .mainBusy

/-- 60_exceptions.md R262, R264: an instruction that records a fault writes the fault record and nothing else. -/
def Obligations.FaultingInstructionWritesOnlyTheRecord : Prop :=
  ∀ (i : Instr) (s t : State), exec i s = .next t → t.fault = true →
    t = { s with fault := true, fcode := t.fcode, fword := t.fword, fctx := t.fctx }

/-- 60_exceptions.md R261: the recorded word and context. A fault of a command records that command's word and the context
that issued it; START_WHILE_RUNNING, the only fault of a micro-step, records MAIN.word and MAIN. -/
def Obligations.FaultRecordNamesTheCommand : Prop :=
  ∀ (i : Instr) (s t : State), exec i s = .next t → t.fault = true →
    (i.isCommand = true ∧ t.fword = encode i ∧ t.fctx = s.portCtx ∧ t.fcode.toNat ∈ [2, 3, 4]) ∨
    (∃ b word kind, i = .xferStart b ∧ s.main = .busy word (.start kind b) ∧ s.xstate = .running ∧
      t.fword = word ∧ t.fctx = .main ∧ t.fcode = 0x05)

/-! ### Commands -/

/-- 42_transfer_controller.md R212, R213, R216, R220: INIT, SHOW and CLEAR accepted by MAIN. INIT sets INITED; INIT and
CLEAR begin the zeroing phase with every pixel byte pending, SHOW the encode phase at slot 0 of target(); nothing else
changes. -/
def Obligations.InitShowClearAreAccepted : Prop :=
  ∀ s : State, AtMain s →
    (s.inited = false → exec .init s = .next { s with
      inited := true, main := .busy 0x0100000000000000 (.clr .forInit (allPixelBytes s.cfg)) }) ∧
    (s.inited = true → exec .clear s = .next { s with
      main := .busy 0x0500000000000000 (.clr .forClear (allPixelBytes s.cfg)) }) ∧
    (s.inited = true → exec .showFrame s = .next { s with
      main := .busy 0x0400000000000000
        (.enc .forShow (if s.cfg.doubleBuffer then otherBuf s.act else s.act) 0) }) ∧
    (∀ i c, (i, c) ∈ allPixelBytes s.cfg ↔ i < s.cfg.ledCount)

/-- 40_pixel_store.md R140, R150: SET_PIXEL and GET_PIXEL of an index in range accepted by MAIN; only MAIN changes. -/
def Obligations.PixelCommandsAreAccepted : Prop :=
  ∀ (s : State) (index : BitVec 16), AtMain s → index.toNat < s.cfg.ledCount →
    (s.inited = true → ∀ r g b, exec (.setPixel index r g b) s = .next { s with
      main := .busy (encode (.setPixel index r g b)) (.setp index g r b [.g, .r, .b]) }) ∧
    exec (.getPixel index) s = .next { s with
      main := .busy (encode (.getPixel index)) (.getp index ⟨none, none, none⟩ [.g, .r, .b]) }

/-- 40_pixel_store.md R144: an out-of-range SET_PIXEL leaves every state unchanged, in both contexts. -/
def Obligations.OutOfRangeSetPixelDoesNothing : Prop :=
  ∀ (s : State) (index : BitVec 16) (r g b : Byte), Live s → s.inited = true → s.cfg.ledCount ≤ index.toNat →
    (s.portCtx = .irq ∨ s.main = .idle) → exec (.setPixel index r g b) s = .next s

/-- 40_pixel_store.md R150: an out-of-range GET_PIXEL responds 0x00000000 to the context that issued it and changes nothing
else; MAIN stays IDLE. -/
def Obligations.OutOfRangeGetPixelRespondsInvalid : Prop :=
  ∀ (s : State) (index : BitVec 16), Live s → s.cfg.ledCount ≤ index.toNat →
    (s.portCtx = .irq ∨ s.main = .idle) →
      exec (.getPixel index) s = .next { s with out := s.out ++ [(s.portCtx, 0x00000000)] }

/-- 40_pixel_store.md R140, 20_memory.md R81: an IRQ SET_PIXEL in range writes its three bytes in one step, G, R and B each
in its channel, and nothing else. -/
def Obligations.InterruptSetPixelWritesOnePixel : Prop :=
  ∀ (s : State) (index : BitVec 16) (r g b : Byte), AtIrq s → s.inited = true → index.toNat < s.cfg.ledCount →
    cellsWf s.px = true →
    ∃ t, exec (.setPixel index r g b) s = .next t ∧
      pxRead t index.toNat .g = g ∧ pxRead t index.toNat .r = r ∧ pxRead t index.toNat .b = b ∧
      (∀ j c, j ≠ index.toNat → pxRead t j c = pxRead s j c) ∧
      t.main = s.main ∧ t.out = s.out ∧ PixelFrame s t

/-- 40_pixel_store.md R150, 30_encoding.md R102: an IRQ GET_PIXEL in range responds in one step with RZ = 0, VALID = 1 and
the stored R, G and B, and changes nothing else. -/
def Obligations.InterruptGetPixelResponds : Prop :=
  ∀ (s : State) (index : BitVec 16), AtIrq s → index.toNat < s.cfg.ledCount →
    ∃ w : Resp, exec (.getPixel index) s = .next { s with out := s.out ++ [(.irq, w)] } ∧
      w.extractLsb' 25 7 = 0 ∧ w.extractLsb' 24 1 = 1 ∧ w.extractLsb' 16 8 = pxRead s index.toNat .r ∧
      w.extractLsb' 8 8 = pxRead s index.toNat .g ∧ w.extractLsb' 0 8 = pxRead s index.toNat .b

/-! ### Pixel micro-steps -/

/-- 40_pixel_store.md R141, R142: a PX_WRITE of a SET_PIXEL in progress writes one pending channel with its byte, removes
it from pend, and returns to IDLE in the step that empties pend. -/
def Obligations.PixelWriteOfSetPixel : Prop :=
  ∀ (s : State) (word : Word) (index : BitVec 16) (g r b : Byte) (pend : List Chan) (c : Chan),
    Live s → cellsWf s.px = true → index.toNat < s.cfg.ledCount → s.main = .busy word (.setp index g r b pend) →
    c ∈ pend →
    ∃ t, exec (.pxWrite index (chanBits c) (chanByte g r b c)) s = .next t ∧
      pxRead t index.toNat c = chanByte g r b c ∧
      (∀ j d, (j, d) ≠ (index.toNat, c) → pxRead t j d = pxRead s j d) ∧
      ((∀ d ∈ pend, d = c) → t.main = .idle) ∧
      ((∃ d ∈ pend, d ≠ c) → t.main = .busy word (.setp index g r b (pend.filter (fun d => decide (d ≠ c))))) ∧
      t.out = s.out ∧ PixelFrame s t

/-- 42_transfer_controller.md R217: a PX_WRITE of a zeroing phase zeroes one pending byte, removes it from pend, and begins
the encode at slot 0 of target() in the step that empties pend. -/
def Obligations.PixelWriteOfZeroing : Prop :=
  ∀ (s : State) (word : Word) (kind : ClearKind) (pend : List (Nat × Chan)) (index : BitVec 16) (c : Chan),
    Live s → cellsWf s.px = true → index.toNat < s.cfg.ledCount → s.main = .busy word (.clr kind pend) →
    (index.toNat, c) ∈ pend →
    ∃ t, exec (.pxWrite index (chanBits c) 0) s = .next t ∧
      pxRead t index.toNat c = 0 ∧
      (∀ j d, (j, d) ≠ (index.toNat, c) → pxRead t j d = pxRead s j d) ∧
      ((∀ e ∈ pend, e = (index.toNat, c)) → t.main = .busy word (.enc (showKindOf kind) (target s) 0)) ∧
      ((∃ e ∈ pend, e ≠ (index.toNat, c)) →
        t.main = .busy word (.clr kind (pend.filter (fun e => decide (e ≠ (index.toNat, c)))))) ∧
      t.out = s.out ∧ PixelFrame s t

/-- 40_pixel_store.md R142 with vector P-13: a bare PX_WRITE, with no command in progress, is PxWrite(i, c, v). That the
meaning answers so is the model's reading (log entry 6); no step of the machine takes it then (R84). -/
def Obligations.BarePixelWrite : Prop :=
  ∀ (s : State) (index : BitVec 16) (c : Chan) (v : Byte),
    Live s → cellsWf s.px = true → s.main = .idle → index.toNat < s.cfg.ledCount →
    ∃ t, exec (.pxWrite index (chanBits c) v) s = .next t ∧ pxRead t index.toNat c = v ∧
      (∀ j d, (j, d) ≠ (index.toNat, c) → pxRead t j d = pxRead s j d) ∧ t.main = .idle ∧ t.out = s.out ∧ PixelFrame s t

/-- 40_pixel_store.md R151, R152: a PX_READ that leaves a channel pending records the byte and changes nothing but MAIN;
the one that empties pend responds to MAIN with VALID, R, G, B and returns to IDLE. -/
def Obligations.PixelReadRecordsAndResponds : Prop :=
  ∀ (s : State) (word : Word) (index : BitVec 16) (got : Got) (pend : List Chan) (c : Chan),
    Live s → index.toNat < s.cfg.ledCount → s.main = .busy word (.getp index got pend) → c ∈ pend →
    ((∃ d ∈ pend, d ≠ c) →
      exec (.pxRead index (chanBits c)) s = .next { s with
        main := .busy word (.getp index (gotSet got c (pxRead s index.toNat c)) (pend.filter (fun d => decide (d ≠ c)))) }) ∧
    (∀ g r b, (∀ d ∈ pend, d = c) → gotSet got c (pxRead s index.toNat c) = ⟨some g, some r, some b⟩ →
      exec (.pxRead index (chanBits c)) s = .next { s with
        main := .idle, out := s.out ++ [(.main, 1#8 ++ r ++ g ++ b)] })

/-! ### The encoder -/

/-- 41_encoder.md R170, R171: ENC_WRITE(T, w) writes PWM_ONE or PWM_ZERO by bit 7 − (w % 8) of channel (w % 24) / 8 of pixel w / 24 in
a data slot and 0 in a reset slot, moves on to slot w + 1 or, after the last slot, to the stop phase, and changes nothing
else: no other slot and not the other buffer. -/
def Obligations.EncodeWriteWritesItsSlot : Prop :=
  ∀ (s : State) (word : Word) (kind : ShowKind) (T : Buf) (slot : BitVec 24),
    Live s → cellsWf s.tb0 = true → cellsWf s.tb1 = true → s.main = .busy word (.enc kind T slot.toNat) →
    slot.toNat < bufferSize s.cfg → (T = .b0 ∨ s.cfg.doubleBuffer = true) →
    ∃ t, exec (.encWrite T slot) s = .next t ∧
      (tbRead t T slot.toNat).toNat =
        (if slot.toNat < 24 * s.cfg.ledCount then
          (if (pxRead s (slot.toNat / 24) (chanOfIndex (slot.toNat % 24 / 8))).getLsbD (7 - slot.toNat % 8) then
            s.cfg.pwmOne else s.cfg.pwmZero)
        else 0) ∧
      (∀ b x, (b, x) ≠ (T, slot.toNat) → tbRead t b x = tbRead s b x) ∧
      t.main = (if slot.toNat + 1 = bufferSize s.cfg then .busy word (.stop kind T)
        else .busy word (.enc kind T (slot.toNat + 1))) ∧
      SamePixels s t ∧ SameEngine s t ∧ SameFlags s t ∧ SameFault s t ∧ SameLogs s t ∧ SameModel s t ∧ t.draws = s.draws

/-- 41_encoder.md R180, R181: the ENC phase with no other step inside it is BUFFER_SIZE ENC_WRITEs, after which the target
buffer is Enc(PX), slot by slot, the other buffer and everything but MAIN is as before, and the stop phase is next. -/
def Obligations.EncodePhaseComputesEnc : Prop :=
  ∀ (s : State) (word : Word) (kind : ShowKind) (T : Buf),
    Live s → cellsWf s.tb0 = true → cellsWf s.tb1 = true → s.main = .busy word (.enc kind T 0) →
    (T = .b0 ∨ s.cfg.doubleBuffer = true) →
    ∃ t, execAll (encodeMicros s.cfg T) s = .next t ∧
      (∀ w < bufferSize s.cfg, tbRead t T w = encSlot s w) ∧
      (∀ w, tbRead t (otherBuf T) w = tbRead s (otherBuf T) w) ∧
      t.main = .busy word (.stop kind T) ∧
      SamePixels s t ∧ SameEngine s t ∧ SameFlags s t ∧ SameFault s t ∧ SameLogs s t ∧ SameModel s t ∧ t.draws = s.draws

/-- 41_encoder.md R172, R180: under any interleaving, a step that leaves the Pixel Store as it is keeps what the encode has
written equal to Enc(PX), up to the encode's next slot; when the encode completes, the whole buffer is Enc(PX). -/
def Obligations.EncodeInProgressAgreesWithStore : Prop :=
  ∀ (s t : State) (word : Word) (kind : ShowKind) (T : Buf) (w : Nat),
    cellsWf s.tb0 = true → cellsWf s.tb1 = true → s.main = .busy word (.enc kind T w) →
    (∀ v < w, tbRead s T v = encSlot s v) → step s = .next t → t.px = s.px →
    (∃ w', t.main = .busy word (.enc kind T w') ∧ ∀ v < w', tbRead t T v = encSlot t v) ∨
    (t.main = .busy word (.stop kind T) ∧ ∀ v < bufferSize t.cfg, tbRead t T v = encSlot t v)

/-- 41_encoder.md R183: Dec recovers, in LED order, the G, R and B bytes of the store a buffer was encoded from,
and gives no value for a buffer with another code in a data slot. -/
def Obligations.DecodeRecoversThePixels : Prop :=
  ∀ (s : State) (b : Buf), legal s.cfg = true →
    ((∀ w < bufferSize s.cfg, tbRead s b w = encSlot s w) →
      decBuffer s b = some ((List.range (3 * s.cfg.ledCount)).map (fun j => pxRead s (j / 3) (chanOfIndex (j % 3))))) ∧
    ((∃ w < 24 * s.cfg.ledCount, tbRead s b w ≠ zeroCode s.cfg ∧ tbRead s b w ≠ oneCode s.cfg) → decBuffer s b = none)

/-! ### The transfer controller and the engine -/

/-- 42_transfer_controller.md R225: XFER_STOP of a STOPPED engine only moves MAIN to the start phase, whatever XFER_MAY_FAIL
is. With XFER_MAY_FAIL = false XFER_STOP of a RUNNING engine also sets TRUNC when XCNT < BUFFER_SIZE and SPLIT when XCUR ≠ 0,
stops, and emits HALT; XCUR and XCNT keep their values. (With XFER_MAY_FAIL = true: `StopAndStartMayFail`.) -/
def Obligations.StopEndsTheTransfer : Prop :=
  ∀ (s : State) (word : Word) (kind : ShowKind) (T : Buf),
    Live s → s.main = .busy word (.stop kind T) →
    (s.xstate = .stopped → exec .xferStop s = .next { s with main := .busy word (.start kind T) }) ∧
    (s.cfg.xferMayFail = false → s.xstate = .running → ∃ t, exec .xferStop s = .next t ∧
      (t.trunc = true ↔ (s.trunc = true ∨ s.xcnt.toNat < bufferSize s.cfg)) ∧
      (t.split = true ↔ (s.split = true ∨ s.xcur ≠ 0)) ∧
      t = { s with
        main := .busy word (.start kind T), xstate := .stopped, trace := s.trace ++ [.halt],
        trunc := t.trunc, split := t.split })

/-- 42_transfer_controller.md R227 with XFER_MAY_FAIL = false: XFER_START of a STOPPED engine starts it on slot 0 of buffer
T, hands T over as ACT, and the command returns. -/
def Obligations.StartBeginsTheTransfer : Prop :=
  ∀ (s : State) (word : Word) (kind : ShowKind) (T : Buf),
    Live s → s.cfg.xferMayFail = false → s.main = .busy word (.start kind T) → s.xstate = .stopped →
    (T = .b0 ∨ s.cfg.doubleBuffer = true) →
      exec (.xferStart T) s = .next { s with
        main := .idle, xstate := .running, xbuf := T, xcur := 0, xcnt := 0, act := T }

/-- 42_transfer_controller.md R227: XFER_START of a RUNNING engine raises START_WHILE_RUNNING with MAIN.word; MAIN is left
as it was. -/
def Obligations.StartWhileRunningIsRecorded : Prop :=
  ∀ (s : State) (word : Word) (kind : ShowKind) (T : Buf),
    Live s → s.main = .busy word (.start kind T) → s.xstate = .running →
      exec (.xferStart T) s = .next { s with fault := true, fcode := 0x05, fword := word, fctx := .main }

/-- 42_transfer_controller.md R229, R225, R227 with XFER_MAY_FAIL = true: a stop of a RUNNING engine and a start of a STOPPED
one complete whatever the free draw is, and the command goes on. A failed stop leaves the engine RUNNING and the line as it
was, a failed start leaves it STOPPED with ACT unchanged: nothing changes but MAIN. A stop or a start that takes effect does
all that R225 and R227 say and nothing else. The counter of the draws is the model's own (log entry 4) and is left open. -/
def Obligations.StopAndStartMayFail : Prop :=
  ∀ (s : State) (word : Word) (kind : ShowKind) (T : Buf), Live s → s.cfg.xferMayFail = true →
    (s.main = .busy word (.stop kind T) → s.xstate = .running → ∃ t, exec .xferStop s = .next t ∧
      (Config.failDraw s.draws = true → t = { s with main := .busy word (.start kind T), draws := t.draws }) ∧
      (Config.failDraw s.draws = false →
        (t.trunc = true ↔ (s.trunc = true ∨ s.xcnt.toNat < bufferSize s.cfg)) ∧
        (t.split = true ↔ (s.split = true ∨ s.xcur ≠ 0)) ∧
        t = { s with
          main := .busy word (.start kind T), xstate := .stopped, trace := s.trace ++ [.halt],
          trunc := t.trunc, split := t.split, draws := t.draws })) ∧
    (s.main = .busy word (.start kind T) → s.xstate = .stopped → (T = .b0 ∨ s.cfg.doubleBuffer = true) →
      ∃ t, exec (.xferStart T) s = .next t ∧
      (Config.failDraw s.draws = true → t = { s with main := .idle, draws := t.draws }) ∧
      (Config.failDraw s.draws = false →
        t = { s with
          main := .idle, xstate := .running, xbuf := T, xcur := 0, xcnt := 0, act := T, draws := t.draws }))

/-- 42_transfer_controller.md R230, R231: XFER_EMIT emits the code the slot holds, counts it up to BUFFER_SIZE, advances
XCUR, and at the end of a pass wraps to slot 0, stopping with HALT only in one-shot mode; nothing else changes. With the
engine STOPPED it is not enabled. -/
def Obligations.EmitSendsTheNextSlot : Prop :=
  ∀ s : State, Live s → (s.xstate = .stopped → exec .xferEmit s = .fault .notEnabled) ∧
    (s.xstate = .running → s.xcur.toNat < bufferSize s.cfg → (s.xbuf = .b0 ∨ s.cfg.doubleBuffer = true) →
    ∃ t, exec .xferEmit s = .next t ∧
      t.xcnt.toNat = min (s.xcnt.toNat + 1) (bufferSize s.cfg) ∧
      (s.xcur.toNat + 1 < bufferSize s.cfg →
        t.xcur.toNat = s.xcur.toNat + 1 ∧ t.xstate = .running ∧
        t.trace = s.trace ++ [.slot (tbRead s s.xbuf s.xcur.toNat)]) ∧
      (s.xcur.toNat + 1 = bufferSize s.cfg → t.xcur = 0 ∧
        (s.cfg.xferMode = .circular →
          t.xstate = .running ∧ t.trace = s.trace ++ [.slot (tbRead s s.xbuf s.xcur.toNat)]) ∧
        (s.cfg.xferMode = .oneShot →
          t.xstate = .stopped ∧ t.trace = s.trace ++ [.slot (tbRead s s.xbuf s.xcur.toNat), .halt])) ∧
      t = { s with xcnt := t.xcnt, xcur := t.xcur, xstate := t.xstate, trace := t.trace })

/-- 42_transfer_controller.md R231: a pass that starts at slot 0 emits the whole buffer, slot by slot in order, and returns
to slot 0 of the same buffer; the engine goes on RUNNING in circular mode, and in one-shot mode it stops and emits HALT. -/
def Obligations.PassSendsTheBuffer : Prop :=
  ∀ s : State, Live s → s.xstate = .running → s.xcur = 0 → (s.xbuf = .b0 ∨ s.cfg.doubleBuffer = true) →
    ∃ t, execAll (List.replicate (bufferSize s.cfg) .xferEmit) s = .next t ∧
      t.trace = s.trace ++ (List.range (bufferSize s.cfg)).map (fun w => .slot (tbRead s s.xbuf w)) ++
        (if s.cfg.xferMode = .circular then [] else [.halt]) ∧
      t.xstate = (if s.cfg.xferMode = .circular then .running else .stopped) ∧ t.xcnt.toNat = bufferSize s.cfg ∧
      t = { s with xcnt := t.xcnt, trace := t.trace, xstate := t.xstate }

/-- 42_transfer_controller.md R210, R212, R214, R225, R227 with XFER_MAY_FAIL = false: a SHOW of MAIN with no other step
inside it is the accepting step, BUFFER_SIZE ENC_WRITEs, one XFER_STOP and one XFER_START, whatever the transfer state was;
then the target buffer is Enc(PX), the engine is RUNNING on it from slot 0, and MAIN is IDLE. -/
def Obligations.ShowRestartsTheTransfer : Prop :=
  ∀ s : State, AtMain s → s.inited = true → s.cfg.xferMayFail = false → cellsWf s.tb0 = true → cellsWf s.tb1 = true →
    (s.cfg.doubleBuffer = false → s.act = .b0) →
    ∃ t, execAll (.showFrame :: (encodeMicros s.cfg (target s) ++ [.xferStop, .xferStart (target s)])) s = .next t ∧
      (∀ w < bufferSize s.cfg, tbRead t (target s) w = encSlot s w) ∧
      (∀ w, tbRead t (otherBuf (target s)) w = tbRead s (otherBuf (target s)) w) ∧
      t.main = .idle ∧ t.xstate = .running ∧ t.xbuf = target s ∧ t.act = target s ∧ t.xcur = 0 ∧ t.xcnt = 0 ∧
      (s.xstate = .stopped → t.trace = s.trace ∧ t.trunc = s.trunc ∧ t.split = s.split) ∧
      (s.xstate = .running → t.trace = s.trace ++ [.halt]) ∧
      SamePixels s t ∧ t.inited = true ∧ SameFault s t ∧ t.out = s.out ∧ SameModel s t

/-- 42_transfer_controller.md R216, R217: the zeroing phase in any order of its pending bytes zeroes each of them and no
other byte, and ends in the encode phase at slot 0 of target(). -/
def Obligations.ZeroingInAnyOrder : Prop :=
  ∀ (s : State) (word : Word) (kind : ClearKind) (pend order : List (Nat × Chan)),
    Live s → cellsWf s.px = true → s.main = .busy word (.clr kind pend) → pend ≠ [] → pend.Nodup → order.Perm pend →
    (∀ e ∈ pend, e.1 < s.cfg.ledCount) →
    ∃ t, execAll (zeroingMicros order) s = .next t ∧
      (∀ i c, (i, c) ∈ pend → pxRead t i c = 0) ∧
      (∀ i c, (i, c) ∉ pend → pxRead t i c = pxRead s i c) ∧
      t.main = .busy word (.enc (showKindOf kind) (target s) 0) ∧ t.out = s.out ∧ PixelFrame s t

/-- 40_pixel_store.md R153: MAIN's SET_PIXEL then MAIN's GET_PIXEL of an index in range, each with its byte steps in any
order, responds with VALID = 1 and the values set. -/
def Obligations.ReadBackYieldsTheValuesSet : Prop :=
  ∀ (s : State) (index : BitVec 16) (r g b : Byte) (writes reads : List Chan),
    AtMain s → s.inited = true → cellsWf s.px = true → index.toNat < s.cfg.ledCount →
    writes.Perm [.g, .r, .b] → reads.Perm [.g, .r, .b] →
    ∃ t, execAll (.setPixel index r g b :: setPixelMicros index r g b writes ++
        .getPixel index :: getPixelMicros index reads) s = .next t ∧
      t.out = s.out ++ [(.main, 1#8 ++ r ++ g ++ b)] ∧ t.main = .idle ∧
      (∀ j c, j ≠ index.toNat → pxRead t j c = pxRead s j c) ∧ PixelFrame s t

/-! ### The whole machine -/

/-- 10_state.md R32, 40_pixel_store.md R142, 20_memory.md R71: only SET_PIXEL of IRQ and PX_WRITE change the Pixel Store;
only ENC_WRITE changes a timing buffer. -/
def Obligations.OnlyTheirWritersChangeTheStores : Prop :=
  ∀ (i : Instr) (s t : State), exec i s = .next t →
    (t.px ≠ s.px → (∃ index ch val, i = .pxWrite index ch val) ∨
      (s.portCtx = .irq ∧ ∃ index r g b, i = .setPixel index r g b)) ∧
    (¬ SameBuffers s t → ∃ T slot, i = .encWrite T slot)

/-- 10_state.md R34 to R40, R43, R44, 42_transfer_controller.md R233, field by field: XSTATE starts only in XFER_START and
stops only in XFER_STOP or at the one-shot end of a pass in XFER_EMIT (there is no cancel); XBUF and ACT are written only by
XFER_START, XCUR and XCNT only by XFER_START and XFER_EMIT; only XFER_STOP changes TRUNC and SPLIT; only INIT changes INITED;
only XFER_EMIT and XFER_STOP append to TRACE; only GET_PIXEL, in one step or through its PX_READs, appends to OUT. -/
def Obligations.OnlyTheirWritersChangeTheRest : Prop :=
  ∀ (i : Instr) (s t : State), exec i s = .next t →
    (s.xstate = .stopped → t.xstate = .running → ∃ T, i = .xferStart T) ∧
    (s.xstate = .running → t.xstate = .stopped →
      i = .xferStop ∨ (i = .xferEmit ∧ s.cfg.xferMode = .oneShot ∧ bufferSize s.cfg ≤ s.xcur.toNat + 1)) ∧
    (t.xbuf ≠ s.xbuf → ∃ T, i = .xferStart T) ∧
    (t.act ≠ s.act → ∃ T, i = .xferStart T) ∧
    (t.xcur ≠ s.xcur → i = .xferEmit ∨ ∃ T, i = .xferStart T) ∧
    (t.xcnt ≠ s.xcnt → i = .xferEmit ∨ ∃ T, i = .xferStart T) ∧
    (t.trunc ≠ s.trunc ∨ t.split ≠ s.split → i = .xferStop) ∧
    (t.inited ≠ s.inited → i = .init) ∧
    (t.trace ≠ s.trace → i = .xferStop ∨ i = .xferEmit) ∧
    (t.out ≠ s.out → (∃ index, i = .getPixel index) ∨ ∃ index ch, i = .pxRead index ch)

/-- 41_encoder.md R170, 42_transfer_controller.md R217, R225, R227, R230, 40_pixel_store.md R141, R151 ("Enabled when"): a
micro-step has a next state only in its own phase, with that phase's operands. A PX_WRITE with MAIN = IDLE is the bare write
of vector P-13, which no step takes (log entry 6, `StepRunsTheNamedMicroStep`). -/
def Obligations.MicroStepsRunOnlyInTheirPhase : Prop :=
  ∀ s t : State,
    (∀ index ch val, exec (.pxWrite index ch val) s = .next t →
      ∃ c, ch = chanBits c ∧ index.toNat < s.cfg.ledCount ∧
        (s.main = .idle ∨
          (∃ word g r b pend, s.main = .busy word (.setp index g r b pend) ∧ c ∈ pend ∧ val = chanByte g r b c) ∨
          (∃ word kind pend, s.main = .busy word (.clr kind pend) ∧ (index.toNat, c) ∈ pend ∧ val = 0))) ∧
    (∀ index ch, exec (.pxRead index ch) s = .next t →
      ∃ c word got pend, ch = chanBits c ∧ index.toNat < s.cfg.ledCount ∧
        s.main = .busy word (.getp index got pend) ∧ c ∈ pend) ∧
    (∀ T slot, exec (.encWrite T slot) s = .next t →
      (∃ word kind, s.main = .busy word (.enc kind T slot.toNat)) ∧ slot.toNat < bufferSize s.cfg) ∧
    (exec .xferStop s = .next t → ∃ word kind T, s.main = .busy word (.stop kind T)) ∧
    (∀ T, exec (.xferStart T) s = .next t → ∃ word kind, s.main = .busy word (.start kind T)) ∧
    (exec .xferEmit s = .next t → s.xstate = .running)

/-- 20_memory.md R81, 60_exceptions.md R272: a command of IRQ never leaves a command in progress nor touches the one that
is: MAIN, the buffers, the transfer state, the flags and the line stay as they are. -/
def Obligations.InterruptCommandLeavesMainAlone : Prop :=
  ∀ (i : Instr) (s t : State), i.isCommand = true → s.portCtx = .irq → exec i s = .next t →
    t.main = s.main ∧ SameBuffers s t ∧ SameEngine s t ∧ SameFlags s t ∧ t.trace = s.trace ∧ SameModel s t

/-- 70_reset_and_hazards.md R301: no step clears INITED, TRUNC or SPLIT (FAULT: `FaultedStateHasNoStep`). -/
def Obligations.NothingClearsTheStickyBits : Prop :=
  ∀ s t : State, step s = .next t →
    (s.inited = true → t.inited = true) ∧ (s.trunc = true → t.trunc = true) ∧ (s.split = true → t.split = true)

/-- 00_scope.md R7, 10_state.md R49, 20_memory.md R84: no step changes a configuration value, and the logs only grow. -/
def Obligations.StepKeepsTheConfiguration : Prop :=
  ∀ s t : State, step s = .next t →
    t.cfg = s.cfg ∧ (∃ new, t.trace = s.trace ++ new) ∧ (∃ new, t.out = s.out ++ new)

/-- 20_memory.md R70: every step keeps the Pixel Store and both timing buffers in the canonical form. -/
def Obligations.StepKeepsTheStoresCanonical : Prop :=
  ∀ s t : State, Memory.wf s = true → step s = .next t → Memory.wf t = true

/-- 10_state.md R31 to R42, 42_transfer_controller.md R213, R234: every step keeps the block's invariant. -/
def Obligations.StepKeepsTheBlockInvariant : Prop :=
  ∀ s t : State, BlockInv s → step s = .next t → BlockInv t

/-- 10_state.md R33, 41_encoder.md R186, 42_transfer_controller.md R230: every step keeps the line invariant, under the
block's: a RUNNING engine reads a buffer that an encode has completed into, so that the line carries only PWM_ZERO, PWM_ONE
and idle codes. -/
def Obligations.StepKeepsTheLineInvariant : Prop :=
  ∀ s t : State, BlockInv s → LineInv s → step s = .next t → LineInv t

/-- 10_state.md R33: once a buffer holds what a completed encode leaves, it does so at every later state. -/
def Obligations.EncodedBufferStaysEncoded : Prop :=
  ∀ (s t : State) (b : Buf), cellsWf s.tb0 = true → cellsWf s.tb1 = true → BufferCoded s b → step s = .next t →
    BufferCoded t b

/-- 42_transfer_controller.md R227: with XFER_MAY_FAIL = false START_WHILE_RUNNING is unreachable. -/
def Obligations.StartFaultIsUnreachable : Prop :=
  ∀ s t : State, BlockInv s → NoStartFault s → step s = .next t → NoStartFault t

/-- 42_transfer_controller.md R234: with DOUBLE_BUFFER = true no ENC_WRITE writes the buffer a RUNNING engine reads. -/
def Obligations.DoubleBufferedEncodeSparesTheEngine : Prop :=
  ∀ (s t : State) (T : Buf) (slot : BitVec 24), BlockInv s → s.cfg.doubleBuffer = true → s.xstate = .running →
    exec (.encWrite T slot) s = .next t → T ≠ s.xbuf ∧ ∀ w, tbRead t s.xbuf w = tbRead s s.xbuf w

/-- 20_memory.md R84, 70_reset_and_hazards.md R330 (no step of the block blocks): under the block's invariant every
micro-step the block may take has a next state. -/
def Obligations.EnabledMicroStepsComplete : Prop :=
  ∀ (s : State) (i : Instr), BlockInv s → s.fault = false → i ∈ enabledMicros s → ∃ t, exec i s = .next t

/-- 70_reset_and_hazards.md R330: in a weakly fair unending run, with the host's commands and the interrupts falling where
they may, a command in progress completes, and a RUNNING engine goes on writing the line: TRACE gains an event. That a run
may be named anew between two steps is the model's account of the interleaving (log entries 2 and 10). -/
def Obligations.FairRunsMakeProgress : Prop :=
  ∀ (run : Nat → State) (n : Nat), RunOf run → WeaklyFair run → BlockInv (run n) →
    (∃ m ≥ n, HostIdle (run m)) ∧
    ((run n).xstate = .running → ∃ m ≥ n, (run n).trace.length < (run m).trace.length)

/-- The state after reset meets every invariant above, for every legal configuration. -/
def Obligations.ResetMeetsTheInvariants : Prop :=
  ∀ c : Config, legal c = true →
    Memory.wf (State.resetWith c) = true ∧ BlockInv (State.resetWith c) ∧ LineInv (State.resetWith c) ∧
      NoStartFault (State.resetWith c)

/-- 70_reset_and_hazards.md R300: reset puts every piece of state at its reset value. -/
def Obligations.ResetLeavesTheResetValues : Prop :=
  ∀ c : Config,
    (∀ i ch, pxRead (State.resetWith c) i ch = 0) ∧ (∀ b w, tbRead (State.resetWith c) b w = 0) ∧
    (State.resetWith c).xstate = .stopped ∧ (State.resetWith c).xbuf = .b0 ∧ (State.resetWith c).xcur = 0 ∧
    (State.resetWith c).xcnt = 0 ∧ (State.resetWith c).act = .b0 ∧ (State.resetWith c).inited = false ∧
    (State.resetWith c).trunc = false ∧ (State.resetWith c).split = false ∧ (State.resetWith c).fault = false ∧
    (State.resetWith c).fcode = 0 ∧ (State.resetWith c).fword = 0 ∧ (State.resetWith c).fctx = .main ∧
    (State.resetWith c).main = .idle ∧ (State.resetWith c).trace = [] ∧ (State.resetWith c).out = []

/-- 00_scope.md R15, R12, R10 item 3, 20_memory.md R73 to R75: slot 24·i + 8·k + j carries bit 7 − j of channel k of pixel i,
channels in the order G, R, B, and every data slot is one of these; every later slot is a reset slot and carries 0. With a
legal configuration the code of a 1 bit is PWM_ONE and that of a 0 bit is PWM_ZERO, and both fit SLOT_WIDTH. -/
def Obligations.SlotsCarryTheBitsInOrder : Prop :=
  ∀ s : State,
    (∀ i k j : Nat, i < s.cfg.ledCount → k < 3 → j < 8 →
      24 * i + 8 * k + j < 24 * s.cfg.ledCount ∧
      encSlot s (24 * i + 8 * k + j) =
        (if (pxRead s i ([Chan.g, Chan.r, Chan.b].getD k .g)).getLsbD (7 - j) then oneCode s.cfg else zeroCode s.cfg)) ∧
    (∀ w, w < 24 * s.cfg.ledCount → ∃ i k j, i < s.cfg.ledCount ∧ k < 3 ∧ j < 8 ∧ w = 24 * i + 8 * k + j) ∧
    (∀ w, 24 * s.cfg.ledCount ≤ w → encSlot s w = 0) ∧
    (legal s.cfg = true →
      (zeroCode s.cfg).toNat = s.cfg.pwmZero ∧ (oneCode s.cfg).toNat = s.cfg.pwmOne ∧
      s.cfg.pwmZero < 2 ^ slotBits s.cfg.slotWidth ∧ s.cfg.pwmOne < 2 ^ slotBits s.cfg.slotWidth)

/-- 10_state.md R43 and the waveform that R47 ASSUMES: "the high-then-low shape and active-high polarity are [from general
knowledge, not in source]" (log entry 14; the source gives no waveform). Under that assumption a SLOT(c) event is
PWM_PERIOD_TICKS ticks, high for the first c and low for the rest; HALT and the time before the first event hold
STOPPED_LINE. -/
def Obligations.SlotIsHighForItsCode : Prop :=
  ∀ (c : Config) (code : Slot), code.toNat ≤ c.periodTicks →
    stretchOf c (.slot code) = .period
      (List.replicate code.toNat .active ++ List.replicate (c.periodTicks - code.toNat) .idle) ∧
    stretchOf c .halt = .held c.stoppedLine ∧ lineOf (State.resetWith c) = [.held c.stoppedLine]
end

