-- ==== Sys2Proof/Laws/Cells.lean ====
section
/-! SUPPORT. The laws of the canonical element lists: a read after a write, the canonical form and the size kept by every
write, and two canonical lists with equal reads are equal. -/

namespace Sys2Proof.Machine

variable {n : Nat}

@[simp] theorem cellRead_nil (a : Nat) : cellRead ([] : List (Nat × BitVec n)) a = 0 := rfl

/-- A canonical list above a bound is one above every lower bound. -/
theorem cellsFrom_mono {low low' : Nat} {m : List (Nat × BitVec n)} (hl : low' ≤ low) (h : cellsFrom low m = true) :
    cellsFrom low' m = true := by
  cases m with
  | nil => rfl
  | cons e rest =>
    simp only [cellsFrom, Bool.and_eq_true, decide_eq_true_eq] at h ⊢
    exact ⟨⟨Nat.le_trans hl h.1.1, h.1.2⟩, h.2⟩

/-- An index below the bound is not listed. -/
theorem cellRead_below {low a : Nat} {m : List (Nat × BitVec n)} (h : cellsFrom low m = true) (ha : a < low) :
    cellRead m a = 0 := by
  induction m generalizing low with
  | nil => rfl
  | cons e rest ih =>
    simp only [cellsFrom, Bool.and_eq_true, decide_eq_true_eq] at h
    have hne : e.1 ≠ a := by omega
    simp only [cellRead, if_neg hne]
    exact ih h.2 (by omega)

/-- A write keeps the canonical form, above every bound that the written index respects. -/
theorem cellsFrom_write {low a : Nat} {m : List (Nat × BitVec n)} (v : BitVec n) (h : cellsFrom low m = true)
    (ha : low ≤ a) : cellsFrom low (cellWrite m a v) = true := by
  induction m generalizing low with
  | nil => by_cases hv : v = unlisted n <;> simp [cellWrite, cellsFrom, hv, ha]
  | cons e rest ih =>
    obtain ⟨k, u⟩ := e
    simp only [cellsFrom, Bool.and_eq_true, decide_eq_true_eq] at h
    obtain ⟨⟨hk, hu⟩, hr⟩ := h
    unfold cellWrite
    split
    · next hlt =>
      split
      · simp [cellsFrom, hk, hu, hr]
      · next hv => simp [cellsFrom, ha, hv, hu, hr]; omega
    · split
      · next hge heq =>
        subst heq
        split
        · exact cellsFrom_mono (by omega) hr
        · next hv => simp [cellsFrom, ha, hv, hr]
      · next hge hne => simp [cellsFrom, hk, hu, ih hr (by omega)]

/-- Every write keeps the canonical form. -/
theorem cellsWf_write {m : List (Nat × BitVec n)} (a : Nat) (v : BitVec n) (h : cellsWf m = true) :
    cellsWf (cellWrite m a v) = true := cellsFrom_write v h (Nat.zero_le a)

/-- Every entry of a written list is the new one or an old one. -/
theorem mem_cellWrite {m : List (Nat × BitVec n)} {a : Nat} {v : BitVec n} {e : Nat × BitVec n}
    (h : e ∈ cellWrite m a v) : e = (a, v) ∨ e ∈ m := by
  induction m with
  | nil =>
    unfold cellWrite at h
    split at h <;> simp_all
  | cons x rest ih =>
    unfold cellWrite at h
    split at h
    · split at h <;> simp_all
    · split at h
      · split at h
        · exact .inr (List.mem_cons_of_mem _ h)
        · rcases List.mem_cons.mp h with h | h
          · exact .inl h
          · exact .inr (List.mem_cons_of_mem _ h)
      · simp only [List.mem_cons] at h ⊢
        rcases h with h | h
        · exact .inr (.inl h)
        · rcases ih h with h | h
          · exact .inl h
          · exact .inr (.inr h)

/-- A write below the size keeps every index below the size. -/
theorem cellsBelow_write {size a : Nat} {m : List (Nat × BitVec n)} (v : BitVec n) (h : cellsBelow size m = true)
    (ha : a < size) : cellsBelow size (cellWrite m a v) = true := by
  simp only [cellsBelow, List.all_eq_true, decide_eq_true_eq] at h ⊢
  intro e he
  rcases mem_cellWrite he with rfl | he
  · exact ha
  · exact h e he

/-- A read after a write to the same place gives the value written. -/
theorem cellRead_write_same {m : List (Nat × BitVec n)} (a : Nat) (v : BitVec n) (h : cellsWf m = true) :
    cellRead (cellWrite m a v) a = v := by
  unfold cellsWf at h
  generalize 0 = low at h
  induction m generalizing low with
  | nil => by_cases hv : v = unlisted n <;> simp [cellWrite, cellRead, hv]; rfl
  | cons e rest ih =>
    obtain ⟨k, u⟩ := e
    simp only [cellsFrom, Bool.and_eq_true, decide_eq_true_eq] at h
    obtain ⟨⟨hk, hu⟩, hr⟩ := h
    unfold cellWrite
    split
    · next hlt =>
      split
      · next hv =>
        have : k ≠ a := by omega
        rw [hv]
        simp only [cellRead, if_neg this]
        exact cellRead_below hr (by omega)
      · simp [cellRead]
    · split
      · next hge heq =>
        subst heq
        split
        · next hv => rw [hv]; exact cellRead_below hr (by omega)
        · simp [cellRead]
      · next hge hne =>
        have : k ≠ a := fun h => hne h.symm
        simp only [cellRead, if_neg this]
        exact ih _ hr

/-- A write leaves every other place alone. -/
theorem cellRead_write_other {m : List (Nat × BitVec n)} {a x : Nat} (v : BitVec n) (hx : x ≠ a) :
    cellRead (cellWrite m a v) x = cellRead m x := by
  induction m with
  | nil =>
    have : a ≠ x := fun h => hx h.symm
    by_cases hv : v = unlisted n <;> simp [cellWrite, cellRead, hv, this]
    rfl
  | cons e rest ih =>
    obtain ⟨k, u⟩ := e
    have hax : a ≠ x := fun h => hx h.symm
    unfold cellWrite
    split
    · split
      · rfl
      · simp [cellRead, hax]
    · split
      · next heq =>
        subst heq
        split <;> simp [cellRead, hax]
      · simp only [cellRead, ih]

/-- Two canonical lists that read the same everywhere are the same list. -/
theorem cells_ext {low : Nat} {m m' : List (Nat × BitVec n)} (h : cellsFrom low m = true) (h' : cellsFrom low m' = true)
    (hr : ∀ a, cellRead m a = cellRead m' a) : m = m' := by
  induction m generalizing low m' with
  | nil =>
    cases m' with
    | nil => rfl
    | cons e rest =>
      simp only [cellsFrom, Bool.and_eq_true, decide_eq_true_eq] at h'
      have := hr e.1
      simp [cellRead] at this
      exact absurd this.symm h'.1.2
  | cons e rest ih =>
    obtain ⟨k, u⟩ := e
    have h0 := h
    simp only [cellsFrom, Bool.and_eq_true, decide_eq_true_eq] at h
    cases m' with
    | nil =>
      have := hr k
      simp [cellRead] at this
      exact absurd this h.1.2
    | cons e' rest' =>
      obtain ⟨k', u'⟩ := e'
      have h0' := h'
      simp only [cellsFrom, Bool.and_eq_true, decide_eq_true_eq] at h'
      have hk : k = k' := by
        rcases Nat.lt_trichotomy k k' with hlt | heq | hgt
        · have h1 := hr k
          have hne : k' ≠ k := by omega
          have : cellRead rest' k = 0 := cellRead_below h'.2 (by omega)
          simp [cellRead, hne, this] at h1
          exact absurd h1 h.1.2
        · exact heq
        · have h1 := hr k'
          have hne : k ≠ k' := by omega
          have : cellRead rest k' = 0 := cellRead_below h.2 (by omega)
          simp [cellRead, hne, this] at h1
          exact absurd h1.symm h'.1.2
      subst hk
      have hu : u = u' := by have := hr k; simpa [cellRead] using this
      subst hu
      have : rest = rest' := by
        refine ih h.2 h'.2 (fun a => ?_)
        by_cases ha : k = a
        · subst ha
          rw [cellRead_below h.2 (by omega), cellRead_below h'.2 (by omega)]
        · have := hr a
          simpa [cellRead, ha] using this
      rw [this]

end Sys2Proof.Machine
end

