-- ==== Sys2Proof/Laws/State.lean ====
section
/-! SUPPORT. What each named update does to each field of the state: one lemma per field per update, true by rfl. -/

namespace Sys2Proof.Machine

/-! ### setMain -/

@[simp] theorem setMain_cfg (m : MainRec) (s : State) : (setMain m s).cfg = s.cfg := rfl
@[simp] theorem setMain_px (m : MainRec) (s : State) : (setMain m s).px = s.px := rfl
@[simp] theorem setMain_tb0 (m : MainRec) (s : State) : (setMain m s).tb0 = s.tb0 := rfl
@[simp] theorem setMain_tb1 (m : MainRec) (s : State) : (setMain m s).tb1 = s.tb1 := rfl
@[simp] theorem setMain_xstate (m : MainRec) (s : State) : (setMain m s).xstate = s.xstate := rfl
@[simp] theorem setMain_xbuf (m : MainRec) (s : State) : (setMain m s).xbuf = s.xbuf := rfl
@[simp] theorem setMain_xcur (m : MainRec) (s : State) : (setMain m s).xcur = s.xcur := rfl
@[simp] theorem setMain_xcnt (m : MainRec) (s : State) : (setMain m s).xcnt = s.xcnt := rfl
@[simp] theorem setMain_act (m : MainRec) (s : State) : (setMain m s).act = s.act := rfl
@[simp] theorem setMain_inited (m : MainRec) (s : State) : (setMain m s).inited = s.inited := rfl
@[simp] theorem setMain_trunc (m : MainRec) (s : State) : (setMain m s).trunc = s.trunc := rfl
@[simp] theorem setMain_split (m : MainRec) (s : State) : (setMain m s).split = s.split := rfl
@[simp] theorem setMain_fault (m : MainRec) (s : State) : (setMain m s).fault = s.fault := rfl
@[simp] theorem setMain_fcode (m : MainRec) (s : State) : (setMain m s).fcode = s.fcode := rfl
@[simp] theorem setMain_fword (m : MainRec) (s : State) : (setMain m s).fword = s.fword := rfl
@[simp] theorem setMain_fctx (m : MainRec) (s : State) : (setMain m s).fctx = s.fctx := rfl
@[simp] theorem setMain_main (m : MainRec) (s : State) : (setMain m s).main = m := rfl
@[simp] theorem setMain_trace (m : MainRec) (s : State) : (setMain m s).trace = s.trace := rfl
@[simp] theorem setMain_out (m : MainRec) (s : State) : (setMain m s).out = s.out := rfl
@[simp] theorem setMain_agenda (m : MainRec) (s : State) : (setMain m s).agenda = s.agenda := rfl
@[simp] theorem setMain_portCtx (m : MainRec) (s : State) : (setMain m s).portCtx = s.portCtx := rfl
@[simp] theorem setMain_draws (m : MainRec) (s : State) : (setMain m s).draws = s.draws := rfl

/-! ### pxWrite -/

@[simp] theorem pxWrite_cfg (s : State) (i : Nat) (c : Chan) (v : Byte) : (pxWrite s i c v).cfg = s.cfg := rfl
@[simp] theorem pxWrite_px (s : State) (i : Nat) (c : Chan) (v : Byte) : (pxWrite s i c v).px = cellWrite s.px (pxElem i c) v := rfl
@[simp] theorem pxWrite_tb0 (s : State) (i : Nat) (c : Chan) (v : Byte) : (pxWrite s i c v).tb0 = s.tb0 := rfl
@[simp] theorem pxWrite_tb1 (s : State) (i : Nat) (c : Chan) (v : Byte) : (pxWrite s i c v).tb1 = s.tb1 := rfl
@[simp] theorem pxWrite_xstate (s : State) (i : Nat) (c : Chan) (v : Byte) : (pxWrite s i c v).xstate = s.xstate := rfl
@[simp] theorem pxWrite_xbuf (s : State) (i : Nat) (c : Chan) (v : Byte) : (pxWrite s i c v).xbuf = s.xbuf := rfl
@[simp] theorem pxWrite_xcur (s : State) (i : Nat) (c : Chan) (v : Byte) : (pxWrite s i c v).xcur = s.xcur := rfl
@[simp] theorem pxWrite_xcnt (s : State) (i : Nat) (c : Chan) (v : Byte) : (pxWrite s i c v).xcnt = s.xcnt := rfl
@[simp] theorem pxWrite_act (s : State) (i : Nat) (c : Chan) (v : Byte) : (pxWrite s i c v).act = s.act := rfl
@[simp] theorem pxWrite_inited (s : State) (i : Nat) (c : Chan) (v : Byte) : (pxWrite s i c v).inited = s.inited := rfl
@[simp] theorem pxWrite_trunc (s : State) (i : Nat) (c : Chan) (v : Byte) : (pxWrite s i c v).trunc = s.trunc := rfl
@[simp] theorem pxWrite_split (s : State) (i : Nat) (c : Chan) (v : Byte) : (pxWrite s i c v).split = s.split := rfl
@[simp] theorem pxWrite_fault (s : State) (i : Nat) (c : Chan) (v : Byte) : (pxWrite s i c v).fault = s.fault := rfl
@[simp] theorem pxWrite_fcode (s : State) (i : Nat) (c : Chan) (v : Byte) : (pxWrite s i c v).fcode = s.fcode := rfl
@[simp] theorem pxWrite_fword (s : State) (i : Nat) (c : Chan) (v : Byte) : (pxWrite s i c v).fword = s.fword := rfl
@[simp] theorem pxWrite_fctx (s : State) (i : Nat) (c : Chan) (v : Byte) : (pxWrite s i c v).fctx = s.fctx := rfl
@[simp] theorem pxWrite_main (s : State) (i : Nat) (c : Chan) (v : Byte) : (pxWrite s i c v).main = s.main := rfl
@[simp] theorem pxWrite_trace (s : State) (i : Nat) (c : Chan) (v : Byte) : (pxWrite s i c v).trace = s.trace := rfl
@[simp] theorem pxWrite_out (s : State) (i : Nat) (c : Chan) (v : Byte) : (pxWrite s i c v).out = s.out := rfl
@[simp] theorem pxWrite_agenda (s : State) (i : Nat) (c : Chan) (v : Byte) : (pxWrite s i c v).agenda = s.agenda := rfl
@[simp] theorem pxWrite_portCtx (s : State) (i : Nat) (c : Chan) (v : Byte) : (pxWrite s i c v).portCtx = s.portCtx := rfl
@[simp] theorem pxWrite_draws (s : State) (i : Nat) (c : Chan) (v : Byte) : (pxWrite s i c v).draws = s.draws := rfl

/-! ### tbWrite -/

@[simp] theorem tbWrite_cfg (s : State) (b : Buf) (w : Nat) (v : Slot) : (tbWrite s b w v).cfg = s.cfg := rfl
@[simp] theorem tbWrite_px (s : State) (b : Buf) (w : Nat) (v : Slot) : (tbWrite s b w v).px = s.px := rfl
@[simp] theorem tbWrite_tb0 (s : State) (b : Buf) (w : Nat) (v : Slot) : (tbWrite s b w v).tb0 = if b = .b0 then cellWrite s.tb0 w v else s.tb0 := rfl
@[simp] theorem tbWrite_tb1 (s : State) (b : Buf) (w : Nat) (v : Slot) : (tbWrite s b w v).tb1 = if b = .b1 then cellWrite s.tb1 w v else s.tb1 := rfl
@[simp] theorem tbWrite_xstate (s : State) (b : Buf) (w : Nat) (v : Slot) : (tbWrite s b w v).xstate = s.xstate := rfl
@[simp] theorem tbWrite_xbuf (s : State) (b : Buf) (w : Nat) (v : Slot) : (tbWrite s b w v).xbuf = s.xbuf := rfl
@[simp] theorem tbWrite_xcur (s : State) (b : Buf) (w : Nat) (v : Slot) : (tbWrite s b w v).xcur = s.xcur := rfl
@[simp] theorem tbWrite_xcnt (s : State) (b : Buf) (w : Nat) (v : Slot) : (tbWrite s b w v).xcnt = s.xcnt := rfl
@[simp] theorem tbWrite_act (s : State) (b : Buf) (w : Nat) (v : Slot) : (tbWrite s b w v).act = s.act := rfl
@[simp] theorem tbWrite_inited (s : State) (b : Buf) (w : Nat) (v : Slot) : (tbWrite s b w v).inited = s.inited := rfl
@[simp] theorem tbWrite_trunc (s : State) (b : Buf) (w : Nat) (v : Slot) : (tbWrite s b w v).trunc = s.trunc := rfl
@[simp] theorem tbWrite_split (s : State) (b : Buf) (w : Nat) (v : Slot) : (tbWrite s b w v).split = s.split := rfl
@[simp] theorem tbWrite_fault (s : State) (b : Buf) (w : Nat) (v : Slot) : (tbWrite s b w v).fault = s.fault := rfl
@[simp] theorem tbWrite_fcode (s : State) (b : Buf) (w : Nat) (v : Slot) : (tbWrite s b w v).fcode = s.fcode := rfl
@[simp] theorem tbWrite_fword (s : State) (b : Buf) (w : Nat) (v : Slot) : (tbWrite s b w v).fword = s.fword := rfl
@[simp] theorem tbWrite_fctx (s : State) (b : Buf) (w : Nat) (v : Slot) : (tbWrite s b w v).fctx = s.fctx := rfl
@[simp] theorem tbWrite_main (s : State) (b : Buf) (w : Nat) (v : Slot) : (tbWrite s b w v).main = s.main := rfl
@[simp] theorem tbWrite_trace (s : State) (b : Buf) (w : Nat) (v : Slot) : (tbWrite s b w v).trace = s.trace := rfl
@[simp] theorem tbWrite_out (s : State) (b : Buf) (w : Nat) (v : Slot) : (tbWrite s b w v).out = s.out := rfl
@[simp] theorem tbWrite_agenda (s : State) (b : Buf) (w : Nat) (v : Slot) : (tbWrite s b w v).agenda = s.agenda := rfl
@[simp] theorem tbWrite_portCtx (s : State) (b : Buf) (w : Nat) (v : Slot) : (tbWrite s b w v).portCtx = s.portCtx := rfl
@[simp] theorem tbWrite_draws (s : State) (b : Buf) (w : Nat) (v : Slot) : (tbWrite s b w v).draws = s.draws := rfl

/-! ### emit -/

@[simp] theorem emit_cfg (e : LineEvent) (s : State) : (emit e s).cfg = s.cfg := rfl
@[simp] theorem emit_px (e : LineEvent) (s : State) : (emit e s).px = s.px := rfl
@[simp] theorem emit_tb0 (e : LineEvent) (s : State) : (emit e s).tb0 = s.tb0 := rfl
@[simp] theorem emit_tb1 (e : LineEvent) (s : State) : (emit e s).tb1 = s.tb1 := rfl
@[simp] theorem emit_xstate (e : LineEvent) (s : State) : (emit e s).xstate = s.xstate := rfl
@[simp] theorem emit_xbuf (e : LineEvent) (s : State) : (emit e s).xbuf = s.xbuf := rfl
@[simp] theorem emit_xcur (e : LineEvent) (s : State) : (emit e s).xcur = s.xcur := rfl
@[simp] theorem emit_xcnt (e : LineEvent) (s : State) : (emit e s).xcnt = s.xcnt := rfl
@[simp] theorem emit_act (e : LineEvent) (s : State) : (emit e s).act = s.act := rfl
@[simp] theorem emit_inited (e : LineEvent) (s : State) : (emit e s).inited = s.inited := rfl
@[simp] theorem emit_trunc (e : LineEvent) (s : State) : (emit e s).trunc = s.trunc := rfl
@[simp] theorem emit_split (e : LineEvent) (s : State) : (emit e s).split = s.split := rfl
@[simp] theorem emit_fault (e : LineEvent) (s : State) : (emit e s).fault = s.fault := rfl
@[simp] theorem emit_fcode (e : LineEvent) (s : State) : (emit e s).fcode = s.fcode := rfl
@[simp] theorem emit_fword (e : LineEvent) (s : State) : (emit e s).fword = s.fword := rfl
@[simp] theorem emit_fctx (e : LineEvent) (s : State) : (emit e s).fctx = s.fctx := rfl
@[simp] theorem emit_main (e : LineEvent) (s : State) : (emit e s).main = s.main := rfl
@[simp] theorem emit_trace (e : LineEvent) (s : State) : (emit e s).trace = s.trace ++ [e] := rfl
@[simp] theorem emit_out (e : LineEvent) (s : State) : (emit e s).out = s.out := rfl
@[simp] theorem emit_agenda (e : LineEvent) (s : State) : (emit e s).agenda = s.agenda := rfl
@[simp] theorem emit_portCtx (e : LineEvent) (s : State) : (emit e s).portCtx = s.portCtx := rfl
@[simp] theorem emit_draws (e : LineEvent) (s : State) : (emit e s).draws = s.draws := rfl

/-! ### respond -/

@[simp] theorem respond_cfg (x : Ctx) (w : Resp) (s : State) : (respond x w s).cfg = s.cfg := rfl
@[simp] theorem respond_px (x : Ctx) (w : Resp) (s : State) : (respond x w s).px = s.px := rfl
@[simp] theorem respond_tb0 (x : Ctx) (w : Resp) (s : State) : (respond x w s).tb0 = s.tb0 := rfl
@[simp] theorem respond_tb1 (x : Ctx) (w : Resp) (s : State) : (respond x w s).tb1 = s.tb1 := rfl
@[simp] theorem respond_xstate (x : Ctx) (w : Resp) (s : State) : (respond x w s).xstate = s.xstate := rfl
@[simp] theorem respond_xbuf (x : Ctx) (w : Resp) (s : State) : (respond x w s).xbuf = s.xbuf := rfl
@[simp] theorem respond_xcur (x : Ctx) (w : Resp) (s : State) : (respond x w s).xcur = s.xcur := rfl
@[simp] theorem respond_xcnt (x : Ctx) (w : Resp) (s : State) : (respond x w s).xcnt = s.xcnt := rfl
@[simp] theorem respond_act (x : Ctx) (w : Resp) (s : State) : (respond x w s).act = s.act := rfl
@[simp] theorem respond_inited (x : Ctx) (w : Resp) (s : State) : (respond x w s).inited = s.inited := rfl
@[simp] theorem respond_trunc (x : Ctx) (w : Resp) (s : State) : (respond x w s).trunc = s.trunc := rfl
@[simp] theorem respond_split (x : Ctx) (w : Resp) (s : State) : (respond x w s).split = s.split := rfl
@[simp] theorem respond_fault (x : Ctx) (w : Resp) (s : State) : (respond x w s).fault = s.fault := rfl
@[simp] theorem respond_fcode (x : Ctx) (w : Resp) (s : State) : (respond x w s).fcode = s.fcode := rfl
@[simp] theorem respond_fword (x : Ctx) (w : Resp) (s : State) : (respond x w s).fword = s.fword := rfl
@[simp] theorem respond_fctx (x : Ctx) (w : Resp) (s : State) : (respond x w s).fctx = s.fctx := rfl
@[simp] theorem respond_main (x : Ctx) (w : Resp) (s : State) : (respond x w s).main = s.main := rfl
@[simp] theorem respond_trace (x : Ctx) (w : Resp) (s : State) : (respond x w s).trace = s.trace := rfl
@[simp] theorem respond_out (x : Ctx) (w : Resp) (s : State) : (respond x w s).out = s.out ++ [(x, w)] := rfl
@[simp] theorem respond_agenda (x : Ctx) (w : Resp) (s : State) : (respond x w s).agenda = s.agenda := rfl
@[simp] theorem respond_portCtx (x : Ctx) (w : Resp) (s : State) : (respond x w s).portCtx = s.portCtx := rfl
@[simp] theorem respond_draws (x : Ctx) (w : Resp) (s : State) : (respond x w s).draws = s.draws := rfl

/-! ### draw -/

@[simp] theorem draw_cfg (s : State) : (draw s).cfg = s.cfg := rfl
@[simp] theorem draw_px (s : State) : (draw s).px = s.px := rfl
@[simp] theorem draw_tb0 (s : State) : (draw s).tb0 = s.tb0 := rfl
@[simp] theorem draw_tb1 (s : State) : (draw s).tb1 = s.tb1 := rfl
@[simp] theorem draw_xstate (s : State) : (draw s).xstate = s.xstate := rfl
@[simp] theorem draw_xbuf (s : State) : (draw s).xbuf = s.xbuf := rfl
@[simp] theorem draw_xcur (s : State) : (draw s).xcur = s.xcur := rfl
@[simp] theorem draw_xcnt (s : State) : (draw s).xcnt = s.xcnt := rfl
@[simp] theorem draw_act (s : State) : (draw s).act = s.act := rfl
@[simp] theorem draw_inited (s : State) : (draw s).inited = s.inited := rfl
@[simp] theorem draw_trunc (s : State) : (draw s).trunc = s.trunc := rfl
@[simp] theorem draw_split (s : State) : (draw s).split = s.split := rfl
@[simp] theorem draw_fault (s : State) : (draw s).fault = s.fault := rfl
@[simp] theorem draw_fcode (s : State) : (draw s).fcode = s.fcode := rfl
@[simp] theorem draw_fword (s : State) : (draw s).fword = s.fword := rfl
@[simp] theorem draw_fctx (s : State) : (draw s).fctx = s.fctx := rfl
@[simp] theorem draw_main (s : State) : (draw s).main = s.main := rfl
@[simp] theorem draw_trace (s : State) : (draw s).trace = s.trace := rfl
@[simp] theorem draw_out (s : State) : (draw s).out = s.out := rfl
@[simp] theorem draw_agenda (s : State) : (draw s).agenda = s.agenda := rfl
@[simp] theorem draw_portCtx (s : State) : (draw s).portCtx = s.portCtx := rfl
@[simp] theorem draw_draws (s : State) : (draw s).draws = s.draws + 1 := rfl

/-! ### raiseFault -/

@[simp] theorem raiseFault_cfg (code : FaultCode) (w : Word) (x : Ctx) (s : State) : (raiseFault code w x s).cfg = s.cfg := rfl
@[simp] theorem raiseFault_px (code : FaultCode) (w : Word) (x : Ctx) (s : State) : (raiseFault code w x s).px = s.px := rfl
@[simp] theorem raiseFault_tb0 (code : FaultCode) (w : Word) (x : Ctx) (s : State) : (raiseFault code w x s).tb0 = s.tb0 := rfl
@[simp] theorem raiseFault_tb1 (code : FaultCode) (w : Word) (x : Ctx) (s : State) : (raiseFault code w x s).tb1 = s.tb1 := rfl
@[simp] theorem raiseFault_xstate (code : FaultCode) (w : Word) (x : Ctx) (s : State) : (raiseFault code w x s).xstate = s.xstate := rfl
@[simp] theorem raiseFault_xbuf (code : FaultCode) (w : Word) (x : Ctx) (s : State) : (raiseFault code w x s).xbuf = s.xbuf := rfl
@[simp] theorem raiseFault_xcur (code : FaultCode) (w : Word) (x : Ctx) (s : State) : (raiseFault code w x s).xcur = s.xcur := rfl
@[simp] theorem raiseFault_xcnt (code : FaultCode) (w : Word) (x : Ctx) (s : State) : (raiseFault code w x s).xcnt = s.xcnt := rfl
@[simp] theorem raiseFault_act (code : FaultCode) (w : Word) (x : Ctx) (s : State) : (raiseFault code w x s).act = s.act := rfl
@[simp] theorem raiseFault_inited (code : FaultCode) (w : Word) (x : Ctx) (s : State) : (raiseFault code w x s).inited = s.inited := rfl
@[simp] theorem raiseFault_trunc (code : FaultCode) (w : Word) (x : Ctx) (s : State) : (raiseFault code w x s).trunc = s.trunc := rfl
@[simp] theorem raiseFault_split (code : FaultCode) (w : Word) (x : Ctx) (s : State) : (raiseFault code w x s).split = s.split := rfl
@[simp] theorem raiseFault_fault (code : FaultCode) (w : Word) (x : Ctx) (s : State) : (raiseFault code w x s).fault = true := rfl
@[simp] theorem raiseFault_fcode (code : FaultCode) (w : Word) (x : Ctx) (s : State) : (raiseFault code w x s).fcode = fcodeOf code := rfl
@[simp] theorem raiseFault_fword (code : FaultCode) (w : Word) (x : Ctx) (s : State) : (raiseFault code w x s).fword = w := rfl
@[simp] theorem raiseFault_fctx (code : FaultCode) (w : Word) (x : Ctx) (s : State) : (raiseFault code w x s).fctx = x := rfl
@[simp] theorem raiseFault_main (code : FaultCode) (w : Word) (x : Ctx) (s : State) : (raiseFault code w x s).main = s.main := rfl
@[simp] theorem raiseFault_trace (code : FaultCode) (w : Word) (x : Ctx) (s : State) : (raiseFault code w x s).trace = s.trace := rfl
@[simp] theorem raiseFault_out (code : FaultCode) (w : Word) (x : Ctx) (s : State) : (raiseFault code w x s).out = s.out := rfl
@[simp] theorem raiseFault_agenda (code : FaultCode) (w : Word) (x : Ctx) (s : State) : (raiseFault code w x s).agenda = s.agenda := rfl
@[simp] theorem raiseFault_portCtx (code : FaultCode) (w : Word) (x : Ctx) (s : State) : (raiseFault code w x s).portCtx = s.portCtx := rfl
@[simp] theorem raiseFault_draws (code : FaultCode) (w : Word) (x : Ctx) (s : State) : (raiseFault code w x s).draws = s.draws := rfl

/-! ### atPort -/

@[simp] theorem atPort_cfg (x : Ctx) (s : State) : (atPort x s).cfg = s.cfg := rfl
@[simp] theorem atPort_px (x : Ctx) (s : State) : (atPort x s).px = s.px := rfl
@[simp] theorem atPort_tb0 (x : Ctx) (s : State) : (atPort x s).tb0 = s.tb0 := rfl
@[simp] theorem atPort_tb1 (x : Ctx) (s : State) : (atPort x s).tb1 = s.tb1 := rfl
@[simp] theorem atPort_xstate (x : Ctx) (s : State) : (atPort x s).xstate = s.xstate := rfl
@[simp] theorem atPort_xbuf (x : Ctx) (s : State) : (atPort x s).xbuf = s.xbuf := rfl
@[simp] theorem atPort_xcur (x : Ctx) (s : State) : (atPort x s).xcur = s.xcur := rfl
@[simp] theorem atPort_xcnt (x : Ctx) (s : State) : (atPort x s).xcnt = s.xcnt := rfl
@[simp] theorem atPort_act (x : Ctx) (s : State) : (atPort x s).act = s.act := rfl
@[simp] theorem atPort_inited (x : Ctx) (s : State) : (atPort x s).inited = s.inited := rfl
@[simp] theorem atPort_trunc (x : Ctx) (s : State) : (atPort x s).trunc = s.trunc := rfl
@[simp] theorem atPort_split (x : Ctx) (s : State) : (atPort x s).split = s.split := rfl
@[simp] theorem atPort_fault (x : Ctx) (s : State) : (atPort x s).fault = s.fault := rfl
@[simp] theorem atPort_fcode (x : Ctx) (s : State) : (atPort x s).fcode = s.fcode := rfl
@[simp] theorem atPort_fword (x : Ctx) (s : State) : (atPort x s).fword = s.fword := rfl
@[simp] theorem atPort_fctx (x : Ctx) (s : State) : (atPort x s).fctx = s.fctx := rfl
@[simp] theorem atPort_main (x : Ctx) (s : State) : (atPort x s).main = s.main := rfl
@[simp] theorem atPort_trace (x : Ctx) (s : State) : (atPort x s).trace = s.trace := rfl
@[simp] theorem atPort_out (x : Ctx) (s : State) : (atPort x s).out = s.out := rfl
@[simp] theorem atPort_agenda (x : Ctx) (s : State) : (atPort x s).agenda = s.agenda := rfl
@[simp] theorem atPort_portCtx (x : Ctx) (s : State) : (atPort x s).portCtx = x := rfl
@[simp] theorem atPort_draws (x : Ctx) (s : State) : (atPort x s).draws = s.draws := rfl

/-! ### startEngine -/

@[simp] theorem startEngine_cfg (T : Buf) (s : State) : (startEngine T s).cfg = s.cfg := rfl
@[simp] theorem startEngine_px (T : Buf) (s : State) : (startEngine T s).px = s.px := rfl
@[simp] theorem startEngine_tb0 (T : Buf) (s : State) : (startEngine T s).tb0 = s.tb0 := rfl
@[simp] theorem startEngine_tb1 (T : Buf) (s : State) : (startEngine T s).tb1 = s.tb1 := rfl
@[simp] theorem startEngine_xstate (T : Buf) (s : State) : (startEngine T s).xstate = .running := rfl
@[simp] theorem startEngine_xbuf (T : Buf) (s : State) : (startEngine T s).xbuf = T := rfl
@[simp] theorem startEngine_xcur (T : Buf) (s : State) : (startEngine T s).xcur = 0 := rfl
@[simp] theorem startEngine_xcnt (T : Buf) (s : State) : (startEngine T s).xcnt = 0 := rfl
@[simp] theorem startEngine_act (T : Buf) (s : State) : (startEngine T s).act = T := rfl
@[simp] theorem startEngine_inited (T : Buf) (s : State) : (startEngine T s).inited = s.inited := rfl
@[simp] theorem startEngine_trunc (T : Buf) (s : State) : (startEngine T s).trunc = s.trunc := rfl
@[simp] theorem startEngine_split (T : Buf) (s : State) : (startEngine T s).split = s.split := rfl
@[simp] theorem startEngine_fault (T : Buf) (s : State) : (startEngine T s).fault = s.fault := rfl
@[simp] theorem startEngine_fcode (T : Buf) (s : State) : (startEngine T s).fcode = s.fcode := rfl
@[simp] theorem startEngine_fword (T : Buf) (s : State) : (startEngine T s).fword = s.fword := rfl
@[simp] theorem startEngine_fctx (T : Buf) (s : State) : (startEngine T s).fctx = s.fctx := rfl
@[simp] theorem startEngine_main (T : Buf) (s : State) : (startEngine T s).main = s.main := rfl
@[simp] theorem startEngine_trace (T : Buf) (s : State) : (startEngine T s).trace = s.trace := rfl
@[simp] theorem startEngine_out (T : Buf) (s : State) : (startEngine T s).out = s.out := rfl
@[simp] theorem startEngine_agenda (T : Buf) (s : State) : (startEngine T s).agenda = s.agenda := rfl
@[simp] theorem startEngine_portCtx (T : Buf) (s : State) : (startEngine T s).portCtx = s.portCtx := rfl
@[simp] theorem startEngine_draws (T : Buf) (s : State) : (startEngine T s).draws = s.draws := rfl

/-! ### stopEngine -/

@[simp] theorem stopEngine_cfg (s : State) : (stopEngine s).cfg = s.cfg := rfl
@[simp] theorem stopEngine_px (s : State) : (stopEngine s).px = s.px := rfl
@[simp] theorem stopEngine_tb0 (s : State) : (stopEngine s).tb0 = s.tb0 := rfl
@[simp] theorem stopEngine_tb1 (s : State) : (stopEngine s).tb1 = s.tb1 := rfl
@[simp] theorem stopEngine_xstate (s : State) : (stopEngine s).xstate = .stopped := rfl
@[simp] theorem stopEngine_xbuf (s : State) : (stopEngine s).xbuf = s.xbuf := rfl
@[simp] theorem stopEngine_xcur (s : State) : (stopEngine s).xcur = s.xcur := rfl
@[simp] theorem stopEngine_xcnt (s : State) : (stopEngine s).xcnt = s.xcnt := rfl
@[simp] theorem stopEngine_act (s : State) : (stopEngine s).act = s.act := rfl
@[simp] theorem stopEngine_inited (s : State) : (stopEngine s).inited = s.inited := rfl
@[simp] theorem stopEngine_trunc (s : State) : (stopEngine s).trunc = truncAfterStop s := rfl
@[simp] theorem stopEngine_split (s : State) : (stopEngine s).split = splitAfterStop s := rfl
@[simp] theorem stopEngine_fault (s : State) : (stopEngine s).fault = s.fault := rfl
@[simp] theorem stopEngine_fcode (s : State) : (stopEngine s).fcode = s.fcode := rfl
@[simp] theorem stopEngine_fword (s : State) : (stopEngine s).fword = s.fword := rfl
@[simp] theorem stopEngine_fctx (s : State) : (stopEngine s).fctx = s.fctx := rfl
@[simp] theorem stopEngine_main (s : State) : (stopEngine s).main = s.main := rfl
@[simp] theorem stopEngine_trace (s : State) : (stopEngine s).trace = s.trace ++ [.halt] := rfl
@[simp] theorem stopEngine_out (s : State) : (stopEngine s).out = s.out := rfl
@[simp] theorem stopEngine_agenda (s : State) : (stopEngine s).agenda = s.agenda := rfl
@[simp] theorem stopEngine_portCtx (s : State) : (stopEngine s).portCtx = s.portCtx := rfl
@[simp] theorem stopEngine_draws (s : State) : (stopEngine s).draws = s.draws := rfl

/-! ### beginInit -/

@[simp] theorem beginInit_cfg (s : State) : (beginInit s).cfg = s.cfg := rfl
@[simp] theorem beginInit_px (s : State) : (beginInit s).px = s.px := rfl
@[simp] theorem beginInit_tb0 (s : State) : (beginInit s).tb0 = s.tb0 := rfl
@[simp] theorem beginInit_tb1 (s : State) : (beginInit s).tb1 = s.tb1 := rfl
@[simp] theorem beginInit_xstate (s : State) : (beginInit s).xstate = s.xstate := rfl
@[simp] theorem beginInit_xbuf (s : State) : (beginInit s).xbuf = s.xbuf := rfl
@[simp] theorem beginInit_xcur (s : State) : (beginInit s).xcur = s.xcur := rfl
@[simp] theorem beginInit_xcnt (s : State) : (beginInit s).xcnt = s.xcnt := rfl
@[simp] theorem beginInit_act (s : State) : (beginInit s).act = s.act := rfl
@[simp] theorem beginInit_inited (s : State) : (beginInit s).inited = true := rfl
@[simp] theorem beginInit_trunc (s : State) : (beginInit s).trunc = s.trunc := rfl
@[simp] theorem beginInit_split (s : State) : (beginInit s).split = s.split := rfl
@[simp] theorem beginInit_fault (s : State) : (beginInit s).fault = s.fault := rfl
@[simp] theorem beginInit_fcode (s : State) : (beginInit s).fcode = s.fcode := rfl
@[simp] theorem beginInit_fword (s : State) : (beginInit s).fword = s.fword := rfl
@[simp] theorem beginInit_fctx (s : State) : (beginInit s).fctx = s.fctx := rfl
@[simp] theorem beginInit_main (s : State) : (beginInit s).main = .busy (encode .init) (.clr .forInit (allPixelBytes s.cfg)) := rfl
@[simp] theorem beginInit_trace (s : State) : (beginInit s).trace = s.trace := rfl
@[simp] theorem beginInit_out (s : State) : (beginInit s).out = s.out := rfl
@[simp] theorem beginInit_agenda (s : State) : (beginInit s).agenda = s.agenda := rfl
@[simp] theorem beginInit_portCtx (s : State) : (beginInit s).portCtx = s.portCtx := rfl
@[simp] theorem beginInit_draws (s : State) : (beginInit s).draws = s.draws := rfl

/-! ### writePixel -/

@[simp] theorem writePixel_cfg (s : State) (i : Nat) (r g b : Byte) : (writePixel s i r g b).cfg = s.cfg := rfl
@[simp] theorem writePixel_tb0 (s : State) (i : Nat) (r g b : Byte) : (writePixel s i r g b).tb0 = s.tb0 := rfl
@[simp] theorem writePixel_tb1 (s : State) (i : Nat) (r g b : Byte) : (writePixel s i r g b).tb1 = s.tb1 := rfl
@[simp] theorem writePixel_xstate (s : State) (i : Nat) (r g b : Byte) : (writePixel s i r g b).xstate = s.xstate := rfl
@[simp] theorem writePixel_xbuf (s : State) (i : Nat) (r g b : Byte) : (writePixel s i r g b).xbuf = s.xbuf := rfl
@[simp] theorem writePixel_xcur (s : State) (i : Nat) (r g b : Byte) : (writePixel s i r g b).xcur = s.xcur := rfl
@[simp] theorem writePixel_xcnt (s : State) (i : Nat) (r g b : Byte) : (writePixel s i r g b).xcnt = s.xcnt := rfl
@[simp] theorem writePixel_act (s : State) (i : Nat) (r g b : Byte) : (writePixel s i r g b).act = s.act := rfl
@[simp] theorem writePixel_inited (s : State) (i : Nat) (r g b : Byte) : (writePixel s i r g b).inited = s.inited := rfl
@[simp] theorem writePixel_trunc (s : State) (i : Nat) (r g b : Byte) : (writePixel s i r g b).trunc = s.trunc := rfl
@[simp] theorem writePixel_split (s : State) (i : Nat) (r g b : Byte) : (writePixel s i r g b).split = s.split := rfl
@[simp] theorem writePixel_fault (s : State) (i : Nat) (r g b : Byte) : (writePixel s i r g b).fault = s.fault := rfl
@[simp] theorem writePixel_fcode (s : State) (i : Nat) (r g b : Byte) : (writePixel s i r g b).fcode = s.fcode := rfl
@[simp] theorem writePixel_fword (s : State) (i : Nat) (r g b : Byte) : (writePixel s i r g b).fword = s.fword := rfl
@[simp] theorem writePixel_fctx (s : State) (i : Nat) (r g b : Byte) : (writePixel s i r g b).fctx = s.fctx := rfl
@[simp] theorem writePixel_main (s : State) (i : Nat) (r g b : Byte) : (writePixel s i r g b).main = s.main := rfl
@[simp] theorem writePixel_trace (s : State) (i : Nat) (r g b : Byte) : (writePixel s i r g b).trace = s.trace := rfl
@[simp] theorem writePixel_out (s : State) (i : Nat) (r g b : Byte) : (writePixel s i r g b).out = s.out := rfl
@[simp] theorem writePixel_agenda (s : State) (i : Nat) (r g b : Byte) : (writePixel s i r g b).agenda = s.agenda := rfl
@[simp] theorem writePixel_portCtx (s : State) (i : Nat) (r g b : Byte) : (writePixel s i r g b).portCtx = s.portCtx := rfl
@[simp] theorem writePixel_draws (s : State) (i : Nat) (r g b : Byte) : (writePixel s i r g b).draws = s.draws := rfl

/-! ### afterDraw: only the free-value counter -/

@[simp] theorem afterDraw_cfg (s : State) : (afterDraw s).cfg = s.cfg := by unfold afterDraw; split <;> rfl
@[simp] theorem afterDraw_px (s : State) : (afterDraw s).px = s.px := by unfold afterDraw; split <;> rfl
@[simp] theorem afterDraw_tb0 (s : State) : (afterDraw s).tb0 = s.tb0 := by unfold afterDraw; split <;> rfl
@[simp] theorem afterDraw_tb1 (s : State) : (afterDraw s).tb1 = s.tb1 := by unfold afterDraw; split <;> rfl
@[simp] theorem afterDraw_xstate (s : State) : (afterDraw s).xstate = s.xstate := by unfold afterDraw; split <;> rfl
@[simp] theorem afterDraw_xbuf (s : State) : (afterDraw s).xbuf = s.xbuf := by unfold afterDraw; split <;> rfl
@[simp] theorem afterDraw_xcur (s : State) : (afterDraw s).xcur = s.xcur := by unfold afterDraw; split <;> rfl
@[simp] theorem afterDraw_xcnt (s : State) : (afterDraw s).xcnt = s.xcnt := by unfold afterDraw; split <;> rfl
@[simp] theorem afterDraw_act (s : State) : (afterDraw s).act = s.act := by unfold afterDraw; split <;> rfl
@[simp] theorem afterDraw_inited (s : State) : (afterDraw s).inited = s.inited := by unfold afterDraw; split <;> rfl
@[simp] theorem afterDraw_trunc (s : State) : (afterDraw s).trunc = s.trunc := by unfold afterDraw; split <;> rfl
@[simp] theorem afterDraw_split (s : State) : (afterDraw s).split = s.split := by unfold afterDraw; split <;> rfl
@[simp] theorem afterDraw_fault (s : State) : (afterDraw s).fault = s.fault := by unfold afterDraw; split <;> rfl
@[simp] theorem afterDraw_fcode (s : State) : (afterDraw s).fcode = s.fcode := by unfold afterDraw; split <;> rfl
@[simp] theorem afterDraw_fword (s : State) : (afterDraw s).fword = s.fword := by unfold afterDraw; split <;> rfl
@[simp] theorem afterDraw_fctx (s : State) : (afterDraw s).fctx = s.fctx := by unfold afterDraw; split <;> rfl
@[simp] theorem afterDraw_main (s : State) : (afterDraw s).main = s.main := by unfold afterDraw; split <;> rfl
@[simp] theorem afterDraw_trace (s : State) : (afterDraw s).trace = s.trace := by unfold afterDraw; split <;> rfl
@[simp] theorem afterDraw_out (s : State) : (afterDraw s).out = s.out := by unfold afterDraw; split <;> rfl
@[simp] theorem afterDraw_agenda (s : State) : (afterDraw s).agenda = s.agenda := by unfold afterDraw; split <;> rfl
@[simp] theorem afterDraw_portCtx (s : State) : (afterDraw s).portCtx = s.portCtx := by unfold afterDraw; split <;> rfl

/-! ### beginSetPixel: what it leaves alone -/

@[simp] theorem beginSetPixel_cfg (index : BitVec 16) (r g b : Byte) (s : State) : (beginSetPixel index r g b s).cfg = s.cfg := by unfold beginSetPixel; split <;> rfl
@[simp] theorem beginSetPixel_px (index : BitVec 16) (r g b : Byte) (s : State) : (beginSetPixel index r g b s).px = s.px := by unfold beginSetPixel; split <;> rfl
@[simp] theorem beginSetPixel_tb0 (index : BitVec 16) (r g b : Byte) (s : State) : (beginSetPixel index r g b s).tb0 = s.tb0 := by unfold beginSetPixel; split <;> rfl
@[simp] theorem beginSetPixel_tb1 (index : BitVec 16) (r g b : Byte) (s : State) : (beginSetPixel index r g b s).tb1 = s.tb1 := by unfold beginSetPixel; split <;> rfl
@[simp] theorem beginSetPixel_xstate (index : BitVec 16) (r g b : Byte) (s : State) : (beginSetPixel index r g b s).xstate = s.xstate := by unfold beginSetPixel; split <;> rfl
@[simp] theorem beginSetPixel_xbuf (index : BitVec 16) (r g b : Byte) (s : State) : (beginSetPixel index r g b s).xbuf = s.xbuf := by unfold beginSetPixel; split <;> rfl
@[simp] theorem beginSetPixel_xcur (index : BitVec 16) (r g b : Byte) (s : State) : (beginSetPixel index r g b s).xcur = s.xcur := by unfold beginSetPixel; split <;> rfl
@[simp] theorem beginSetPixel_xcnt (index : BitVec 16) (r g b : Byte) (s : State) : (beginSetPixel index r g b s).xcnt = s.xcnt := by unfold beginSetPixel; split <;> rfl
@[simp] theorem beginSetPixel_act (index : BitVec 16) (r g b : Byte) (s : State) : (beginSetPixel index r g b s).act = s.act := by unfold beginSetPixel; split <;> rfl
@[simp] theorem beginSetPixel_inited (index : BitVec 16) (r g b : Byte) (s : State) : (beginSetPixel index r g b s).inited = s.inited := by unfold beginSetPixel; split <;> rfl
@[simp] theorem beginSetPixel_trunc (index : BitVec 16) (r g b : Byte) (s : State) : (beginSetPixel index r g b s).trunc = s.trunc := by unfold beginSetPixel; split <;> rfl
@[simp] theorem beginSetPixel_split (index : BitVec 16) (r g b : Byte) (s : State) : (beginSetPixel index r g b s).split = s.split := by unfold beginSetPixel; split <;> rfl
@[simp] theorem beginSetPixel_fault (index : BitVec 16) (r g b : Byte) (s : State) : (beginSetPixel index r g b s).fault = s.fault := by unfold beginSetPixel; split <;> rfl
@[simp] theorem beginSetPixel_fcode (index : BitVec 16) (r g b : Byte) (s : State) : (beginSetPixel index r g b s).fcode = s.fcode := by unfold beginSetPixel; split <;> rfl
@[simp] theorem beginSetPixel_fword (index : BitVec 16) (r g b : Byte) (s : State) : (beginSetPixel index r g b s).fword = s.fword := by unfold beginSetPixel; split <;> rfl
@[simp] theorem beginSetPixel_fctx (index : BitVec 16) (r g b : Byte) (s : State) : (beginSetPixel index r g b s).fctx = s.fctx := by unfold beginSetPixel; split <;> rfl
@[simp] theorem beginSetPixel_trace (index : BitVec 16) (r g b : Byte) (s : State) : (beginSetPixel index r g b s).trace = s.trace := by unfold beginSetPixel; split <;> rfl
@[simp] theorem beginSetPixel_out (index : BitVec 16) (r g b : Byte) (s : State) : (beginSetPixel index r g b s).out = s.out := by unfold beginSetPixel; split <;> rfl
@[simp] theorem beginSetPixel_agenda (index : BitVec 16) (r g b : Byte) (s : State) : (beginSetPixel index r g b s).agenda = s.agenda := by unfold beginSetPixel; split <;> rfl
@[simp] theorem beginSetPixel_portCtx (index : BitVec 16) (r g b : Byte) (s : State) : (beginSetPixel index r g b s).portCtx = s.portCtx := by unfold beginSetPixel; split <;> rfl
@[simp] theorem beginSetPixel_draws (index : BitVec 16) (r g b : Byte) (s : State) : (beginSetPixel index r g b s).draws = s.draws := by unfold beginSetPixel; split <;> rfl

/-! ### irqSetPixel: what it leaves alone -/

@[simp] theorem irqSetPixel_cfg (index : BitVec 16) (r g b : Byte) (s : State) : (irqSetPixel index r g b s).cfg = s.cfg := by unfold irqSetPixel; split <;> rfl
@[simp] theorem irqSetPixel_tb0 (index : BitVec 16) (r g b : Byte) (s : State) : (irqSetPixel index r g b s).tb0 = s.tb0 := by unfold irqSetPixel; split <;> rfl
@[simp] theorem irqSetPixel_tb1 (index : BitVec 16) (r g b : Byte) (s : State) : (irqSetPixel index r g b s).tb1 = s.tb1 := by unfold irqSetPixel; split <;> rfl
@[simp] theorem irqSetPixel_xstate (index : BitVec 16) (r g b : Byte) (s : State) : (irqSetPixel index r g b s).xstate = s.xstate := by unfold irqSetPixel; split <;> rfl
@[simp] theorem irqSetPixel_xbuf (index : BitVec 16) (r g b : Byte) (s : State) : (irqSetPixel index r g b s).xbuf = s.xbuf := by unfold irqSetPixel; split <;> rfl
@[simp] theorem irqSetPixel_xcur (index : BitVec 16) (r g b : Byte) (s : State) : (irqSetPixel index r g b s).xcur = s.xcur := by unfold irqSetPixel; split <;> rfl
@[simp] theorem irqSetPixel_xcnt (index : BitVec 16) (r g b : Byte) (s : State) : (irqSetPixel index r g b s).xcnt = s.xcnt := by unfold irqSetPixel; split <;> rfl
@[simp] theorem irqSetPixel_act (index : BitVec 16) (r g b : Byte) (s : State) : (irqSetPixel index r g b s).act = s.act := by unfold irqSetPixel; split <;> rfl
@[simp] theorem irqSetPixel_inited (index : BitVec 16) (r g b : Byte) (s : State) : (irqSetPixel index r g b s).inited = s.inited := by unfold irqSetPixel; split <;> rfl
@[simp] theorem irqSetPixel_trunc (index : BitVec 16) (r g b : Byte) (s : State) : (irqSetPixel index r g b s).trunc = s.trunc := by unfold irqSetPixel; split <;> rfl
@[simp] theorem irqSetPixel_split (index : BitVec 16) (r g b : Byte) (s : State) : (irqSetPixel index r g b s).split = s.split := by unfold irqSetPixel; split <;> rfl
@[simp] theorem irqSetPixel_fault (index : BitVec 16) (r g b : Byte) (s : State) : (irqSetPixel index r g b s).fault = s.fault := by unfold irqSetPixel; split <;> rfl
@[simp] theorem irqSetPixel_fcode (index : BitVec 16) (r g b : Byte) (s : State) : (irqSetPixel index r g b s).fcode = s.fcode := by unfold irqSetPixel; split <;> rfl
@[simp] theorem irqSetPixel_fword (index : BitVec 16) (r g b : Byte) (s : State) : (irqSetPixel index r g b s).fword = s.fword := by unfold irqSetPixel; split <;> rfl
@[simp] theorem irqSetPixel_fctx (index : BitVec 16) (r g b : Byte) (s : State) : (irqSetPixel index r g b s).fctx = s.fctx := by unfold irqSetPixel; split <;> rfl
@[simp] theorem irqSetPixel_main (index : BitVec 16) (r g b : Byte) (s : State) : (irqSetPixel index r g b s).main = s.main := by unfold irqSetPixel; split <;> rfl
@[simp] theorem irqSetPixel_trace (index : BitVec 16) (r g b : Byte) (s : State) : (irqSetPixel index r g b s).trace = s.trace := by unfold irqSetPixel; split <;> rfl
@[simp] theorem irqSetPixel_out (index : BitVec 16) (r g b : Byte) (s : State) : (irqSetPixel index r g b s).out = s.out := by unfold irqSetPixel; split <;> rfl
@[simp] theorem irqSetPixel_agenda (index : BitVec 16) (r g b : Byte) (s : State) : (irqSetPixel index r g b s).agenda = s.agenda := by unfold irqSetPixel; split <;> rfl
@[simp] theorem irqSetPixel_portCtx (index : BitVec 16) (r g b : Byte) (s : State) : (irqSetPixel index r g b s).portCtx = s.portCtx := by unfold irqSetPixel; split <;> rfl
@[simp] theorem irqSetPixel_draws (index : BitVec 16) (r g b : Byte) (s : State) : (irqSetPixel index r g b s).draws = s.draws := by unfold irqSetPixel; split <;> rfl

/-! ### beginGetPixel: what it leaves alone -/

@[simp] theorem beginGetPixel_cfg (index : BitVec 16) (s : State) : (beginGetPixel index s).cfg = s.cfg := by unfold beginGetPixel; split <;> rfl
@[simp] theorem beginGetPixel_px (index : BitVec 16) (s : State) : (beginGetPixel index s).px = s.px := by unfold beginGetPixel; split <;> rfl
@[simp] theorem beginGetPixel_tb0 (index : BitVec 16) (s : State) : (beginGetPixel index s).tb0 = s.tb0 := by unfold beginGetPixel; split <;> rfl
@[simp] theorem beginGetPixel_tb1 (index : BitVec 16) (s : State) : (beginGetPixel index s).tb1 = s.tb1 := by unfold beginGetPixel; split <;> rfl
@[simp] theorem beginGetPixel_xstate (index : BitVec 16) (s : State) : (beginGetPixel index s).xstate = s.xstate := by unfold beginGetPixel; split <;> rfl
@[simp] theorem beginGetPixel_xbuf (index : BitVec 16) (s : State) : (beginGetPixel index s).xbuf = s.xbuf := by unfold beginGetPixel; split <;> rfl
@[simp] theorem beginGetPixel_xcur (index : BitVec 16) (s : State) : (beginGetPixel index s).xcur = s.xcur := by unfold beginGetPixel; split <;> rfl
@[simp] theorem beginGetPixel_xcnt (index : BitVec 16) (s : State) : (beginGetPixel index s).xcnt = s.xcnt := by unfold beginGetPixel; split <;> rfl
@[simp] theorem beginGetPixel_act (index : BitVec 16) (s : State) : (beginGetPixel index s).act = s.act := by unfold beginGetPixel; split <;> rfl
@[simp] theorem beginGetPixel_inited (index : BitVec 16) (s : State) : (beginGetPixel index s).inited = s.inited := by unfold beginGetPixel; split <;> rfl
@[simp] theorem beginGetPixel_trunc (index : BitVec 16) (s : State) : (beginGetPixel index s).trunc = s.trunc := by unfold beginGetPixel; split <;> rfl
@[simp] theorem beginGetPixel_split (index : BitVec 16) (s : State) : (beginGetPixel index s).split = s.split := by unfold beginGetPixel; split <;> rfl
@[simp] theorem beginGetPixel_fault (index : BitVec 16) (s : State) : (beginGetPixel index s).fault = s.fault := by unfold beginGetPixel; split <;> rfl
@[simp] theorem beginGetPixel_fcode (index : BitVec 16) (s : State) : (beginGetPixel index s).fcode = s.fcode := by unfold beginGetPixel; split <;> rfl
@[simp] theorem beginGetPixel_fword (index : BitVec 16) (s : State) : (beginGetPixel index s).fword = s.fword := by unfold beginGetPixel; split <;> rfl
@[simp] theorem beginGetPixel_fctx (index : BitVec 16) (s : State) : (beginGetPixel index s).fctx = s.fctx := by unfold beginGetPixel; split <;> rfl
@[simp] theorem beginGetPixel_trace (index : BitVec 16) (s : State) : (beginGetPixel index s).trace = s.trace := by unfold beginGetPixel; split <;> rfl
@[simp] theorem beginGetPixel_agenda (index : BitVec 16) (s : State) : (beginGetPixel index s).agenda = s.agenda := by unfold beginGetPixel; split <;> rfl
@[simp] theorem beginGetPixel_portCtx (index : BitVec 16) (s : State) : (beginGetPixel index s).portCtx = s.portCtx := by unfold beginGetPixel; split <;> rfl
@[simp] theorem beginGetPixel_draws (index : BitVec 16) (s : State) : (beginGetPixel index s).draws = s.draws := by unfold beginGetPixel; split <;> rfl

/-! ### irqGetPixel: what it leaves alone -/

@[simp] theorem irqGetPixel_cfg (index : BitVec 16) (s : State) : (irqGetPixel index s).cfg = s.cfg := by unfold irqGetPixel; split <;> rfl
@[simp] theorem irqGetPixel_px (index : BitVec 16) (s : State) : (irqGetPixel index s).px = s.px := by unfold irqGetPixel; split <;> rfl
@[simp] theorem irqGetPixel_tb0 (index : BitVec 16) (s : State) : (irqGetPixel index s).tb0 = s.tb0 := by unfold irqGetPixel; split <;> rfl
@[simp] theorem irqGetPixel_tb1 (index : BitVec 16) (s : State) : (irqGetPixel index s).tb1 = s.tb1 := by unfold irqGetPixel; split <;> rfl
@[simp] theorem irqGetPixel_xstate (index : BitVec 16) (s : State) : (irqGetPixel index s).xstate = s.xstate := by unfold irqGetPixel; split <;> rfl
@[simp] theorem irqGetPixel_xbuf (index : BitVec 16) (s : State) : (irqGetPixel index s).xbuf = s.xbuf := by unfold irqGetPixel; split <;> rfl
@[simp] theorem irqGetPixel_xcur (index : BitVec 16) (s : State) : (irqGetPixel index s).xcur = s.xcur := by unfold irqGetPixel; split <;> rfl
@[simp] theorem irqGetPixel_xcnt (index : BitVec 16) (s : State) : (irqGetPixel index s).xcnt = s.xcnt := by unfold irqGetPixel; split <;> rfl
@[simp] theorem irqGetPixel_act (index : BitVec 16) (s : State) : (irqGetPixel index s).act = s.act := by unfold irqGetPixel; split <;> rfl
@[simp] theorem irqGetPixel_inited (index : BitVec 16) (s : State) : (irqGetPixel index s).inited = s.inited := by unfold irqGetPixel; split <;> rfl
@[simp] theorem irqGetPixel_trunc (index : BitVec 16) (s : State) : (irqGetPixel index s).trunc = s.trunc := by unfold irqGetPixel; split <;> rfl
@[simp] theorem irqGetPixel_split (index : BitVec 16) (s : State) : (irqGetPixel index s).split = s.split := by unfold irqGetPixel; split <;> rfl
@[simp] theorem irqGetPixel_fault (index : BitVec 16) (s : State) : (irqGetPixel index s).fault = s.fault := by unfold irqGetPixel; split <;> rfl
@[simp] theorem irqGetPixel_fcode (index : BitVec 16) (s : State) : (irqGetPixel index s).fcode = s.fcode := by unfold irqGetPixel; split <;> rfl
@[simp] theorem irqGetPixel_fword (index : BitVec 16) (s : State) : (irqGetPixel index s).fword = s.fword := by unfold irqGetPixel; split <;> rfl
@[simp] theorem irqGetPixel_fctx (index : BitVec 16) (s : State) : (irqGetPixel index s).fctx = s.fctx := by unfold irqGetPixel; split <;> rfl
@[simp] theorem irqGetPixel_main (index : BitVec 16) (s : State) : (irqGetPixel index s).main = s.main := by unfold irqGetPixel; split <;> rfl
@[simp] theorem irqGetPixel_trace (index : BitVec 16) (s : State) : (irqGetPixel index s).trace = s.trace := by unfold irqGetPixel; split <;> rfl
@[simp] theorem irqGetPixel_agenda (index : BitVec 16) (s : State) : (irqGetPixel index s).agenda = s.agenda := by unfold irqGetPixel; split <;> rfl
@[simp] theorem irqGetPixel_portCtx (index : BitVec 16) (s : State) : (irqGetPixel index s).portCtx = s.portCtx := by unfold irqGetPixel; split <;> rfl
@[simp] theorem irqGetPixel_draws (index : BitVec 16) (s : State) : (irqGetPixel index s).draws = s.draws := by unfold irqGetPixel; split <;> rfl

/-! ### beginShow: what it leaves alone -/

@[simp] theorem beginShow_cfg (s : State) : (beginShow s).cfg = s.cfg := rfl
@[simp] theorem beginShow_px (s : State) : (beginShow s).px = s.px := rfl
@[simp] theorem beginShow_tb0 (s : State) : (beginShow s).tb0 = s.tb0 := rfl
@[simp] theorem beginShow_tb1 (s : State) : (beginShow s).tb1 = s.tb1 := rfl
@[simp] theorem beginShow_xstate (s : State) : (beginShow s).xstate = s.xstate := rfl
@[simp] theorem beginShow_xbuf (s : State) : (beginShow s).xbuf = s.xbuf := rfl
@[simp] theorem beginShow_xcur (s : State) : (beginShow s).xcur = s.xcur := rfl
@[simp] theorem beginShow_xcnt (s : State) : (beginShow s).xcnt = s.xcnt := rfl
@[simp] theorem beginShow_act (s : State) : (beginShow s).act = s.act := rfl
@[simp] theorem beginShow_inited (s : State) : (beginShow s).inited = s.inited := rfl
@[simp] theorem beginShow_trunc (s : State) : (beginShow s).trunc = s.trunc := rfl
@[simp] theorem beginShow_split (s : State) : (beginShow s).split = s.split := rfl
@[simp] theorem beginShow_fault (s : State) : (beginShow s).fault = s.fault := rfl
@[simp] theorem beginShow_fcode (s : State) : (beginShow s).fcode = s.fcode := rfl
@[simp] theorem beginShow_fword (s : State) : (beginShow s).fword = s.fword := rfl
@[simp] theorem beginShow_fctx (s : State) : (beginShow s).fctx = s.fctx := rfl
@[simp] theorem beginShow_trace (s : State) : (beginShow s).trace = s.trace := rfl
@[simp] theorem beginShow_out (s : State) : (beginShow s).out = s.out := rfl
@[simp] theorem beginShow_agenda (s : State) : (beginShow s).agenda = s.agenda := rfl
@[simp] theorem beginShow_portCtx (s : State) : (beginShow s).portCtx = s.portCtx := rfl
@[simp] theorem beginShow_draws (s : State) : (beginShow s).draws = s.draws := rfl

/-! ### beginClear: what it leaves alone -/

@[simp] theorem beginClear_cfg (s : State) : (beginClear s).cfg = s.cfg := rfl
@[simp] theorem beginClear_px (s : State) : (beginClear s).px = s.px := rfl
@[simp] theorem beginClear_tb0 (s : State) : (beginClear s).tb0 = s.tb0 := rfl
@[simp] theorem beginClear_tb1 (s : State) : (beginClear s).tb1 = s.tb1 := rfl
@[simp] theorem beginClear_xstate (s : State) : (beginClear s).xstate = s.xstate := rfl
@[simp] theorem beginClear_xbuf (s : State) : (beginClear s).xbuf = s.xbuf := rfl
@[simp] theorem beginClear_xcur (s : State) : (beginClear s).xcur = s.xcur := rfl
@[simp] theorem beginClear_xcnt (s : State) : (beginClear s).xcnt = s.xcnt := rfl
@[simp] theorem beginClear_act (s : State) : (beginClear s).act = s.act := rfl
@[simp] theorem beginClear_inited (s : State) : (beginClear s).inited = s.inited := rfl
@[simp] theorem beginClear_trunc (s : State) : (beginClear s).trunc = s.trunc := rfl
@[simp] theorem beginClear_split (s : State) : (beginClear s).split = s.split := rfl
@[simp] theorem beginClear_fault (s : State) : (beginClear s).fault = s.fault := rfl
@[simp] theorem beginClear_fcode (s : State) : (beginClear s).fcode = s.fcode := rfl
@[simp] theorem beginClear_fword (s : State) : (beginClear s).fword = s.fword := rfl
@[simp] theorem beginClear_fctx (s : State) : (beginClear s).fctx = s.fctx := rfl
@[simp] theorem beginClear_trace (s : State) : (beginClear s).trace = s.trace := rfl
@[simp] theorem beginClear_out (s : State) : (beginClear s).out = s.out := rfl
@[simp] theorem beginClear_agenda (s : State) : (beginClear s).agenda = s.agenda := rfl
@[simp] theorem beginClear_portCtx (s : State) : (beginClear s).portCtx = s.portCtx := rfl
@[simp] theorem beginClear_draws (s : State) : (beginClear s).draws = s.draws := rfl

/-! ### stopIfRunning: what it leaves alone -/

@[simp] theorem stopIfRunning_cfg (s : State) : (stopIfRunning s).cfg = s.cfg := by unfold stopIfRunning; split <;> [rfl; split] <;> simp
@[simp] theorem stopIfRunning_px (s : State) : (stopIfRunning s).px = s.px := by unfold stopIfRunning; split <;> [rfl; split] <;> simp
@[simp] theorem stopIfRunning_tb0 (s : State) : (stopIfRunning s).tb0 = s.tb0 := by unfold stopIfRunning; split <;> [rfl; split] <;> simp
@[simp] theorem stopIfRunning_tb1 (s : State) : (stopIfRunning s).tb1 = s.tb1 := by unfold stopIfRunning; split <;> [rfl; split] <;> simp
@[simp] theorem stopIfRunning_xbuf (s : State) : (stopIfRunning s).xbuf = s.xbuf := by unfold stopIfRunning; split <;> [rfl; split] <;> simp
@[simp] theorem stopIfRunning_xcur (s : State) : (stopIfRunning s).xcur = s.xcur := by unfold stopIfRunning; split <;> [rfl; split] <;> simp
@[simp] theorem stopIfRunning_xcnt (s : State) : (stopIfRunning s).xcnt = s.xcnt := by unfold stopIfRunning; split <;> [rfl; split] <;> simp
@[simp] theorem stopIfRunning_act (s : State) : (stopIfRunning s).act = s.act := by unfold stopIfRunning; split <;> [rfl; split] <;> simp
@[simp] theorem stopIfRunning_inited (s : State) : (stopIfRunning s).inited = s.inited := by unfold stopIfRunning; split <;> [rfl; split] <;> simp
@[simp] theorem stopIfRunning_fault (s : State) : (stopIfRunning s).fault = s.fault := by unfold stopIfRunning; split <;> [rfl; split] <;> simp
@[simp] theorem stopIfRunning_fcode (s : State) : (stopIfRunning s).fcode = s.fcode := by unfold stopIfRunning; split <;> [rfl; split] <;> simp
@[simp] theorem stopIfRunning_fword (s : State) : (stopIfRunning s).fword = s.fword := by unfold stopIfRunning; split <;> [rfl; split] <;> simp
@[simp] theorem stopIfRunning_fctx (s : State) : (stopIfRunning s).fctx = s.fctx := by unfold stopIfRunning; split <;> [rfl; split] <;> simp
@[simp] theorem stopIfRunning_main (s : State) : (stopIfRunning s).main = s.main := by unfold stopIfRunning; split <;> [rfl; split] <;> simp
@[simp] theorem stopIfRunning_out (s : State) : (stopIfRunning s).out = s.out := by unfold stopIfRunning; split <;> [rfl; split] <;> simp
@[simp] theorem stopIfRunning_agenda (s : State) : (stopIfRunning s).agenda = s.agenda := by unfold stopIfRunning; split <;> [rfl; split] <;> simp
@[simp] theorem stopIfRunning_portCtx (s : State) : (stopIfRunning s).portCtx = s.portCtx := by unfold stopIfRunning; split <;> [rfl; split] <;> simp

/-! ### startOrFail: what it leaves alone -/

@[simp] theorem startOrFail_cfg (T : Buf) (s : State) : (startOrFail T s).cfg = s.cfg := by unfold startOrFail; split <;> simp
@[simp] theorem startOrFail_px (T : Buf) (s : State) : (startOrFail T s).px = s.px := by unfold startOrFail; split <;> simp
@[simp] theorem startOrFail_tb0 (T : Buf) (s : State) : (startOrFail T s).tb0 = s.tb0 := by unfold startOrFail; split <;> simp
@[simp] theorem startOrFail_tb1 (T : Buf) (s : State) : (startOrFail T s).tb1 = s.tb1 := by unfold startOrFail; split <;> simp
@[simp] theorem startOrFail_inited (T : Buf) (s : State) : (startOrFail T s).inited = s.inited := by unfold startOrFail; split <;> simp
@[simp] theorem startOrFail_trunc (T : Buf) (s : State) : (startOrFail T s).trunc = s.trunc := by unfold startOrFail; split <;> simp
@[simp] theorem startOrFail_split (T : Buf) (s : State) : (startOrFail T s).split = s.split := by unfold startOrFail; split <;> simp
@[simp] theorem startOrFail_fault (T : Buf) (s : State) : (startOrFail T s).fault = s.fault := by unfold startOrFail; split <;> simp
@[simp] theorem startOrFail_fcode (T : Buf) (s : State) : (startOrFail T s).fcode = s.fcode := by unfold startOrFail; split <;> simp
@[simp] theorem startOrFail_fword (T : Buf) (s : State) : (startOrFail T s).fword = s.fword := by unfold startOrFail; split <;> simp
@[simp] theorem startOrFail_fctx (T : Buf) (s : State) : (startOrFail T s).fctx = s.fctx := by unfold startOrFail; split <;> simp
@[simp] theorem startOrFail_main (T : Buf) (s : State) : (startOrFail T s).main = s.main := by unfold startOrFail; split <;> simp
@[simp] theorem startOrFail_trace (T : Buf) (s : State) : (startOrFail T s).trace = s.trace := by unfold startOrFail; split <;> simp
@[simp] theorem startOrFail_out (T : Buf) (s : State) : (startOrFail T s).out = s.out := by unfold startOrFail; split <;> simp
@[simp] theorem startOrFail_agenda (T : Buf) (s : State) : (startOrFail T s).agenda = s.agenda := by unfold startOrFail; split <;> simp
@[simp] theorem startOrFail_portCtx (T : Buf) (s : State) : (startOrFail T s).portCtx = s.portCtx := by unfold startOrFail; split <;> simp

/-! ### endOfPass: what it leaves alone -/

@[simp] theorem endOfPass_cfg (s : State) : (endOfPass s).cfg = s.cfg := by unfold endOfPass; split <;> rfl
@[simp] theorem endOfPass_px (s : State) : (endOfPass s).px = s.px := by unfold endOfPass; split <;> rfl
@[simp] theorem endOfPass_tb0 (s : State) : (endOfPass s).tb0 = s.tb0 := by unfold endOfPass; split <;> rfl
@[simp] theorem endOfPass_tb1 (s : State) : (endOfPass s).tb1 = s.tb1 := by unfold endOfPass; split <;> rfl
@[simp] theorem endOfPass_xbuf (s : State) : (endOfPass s).xbuf = s.xbuf := by unfold endOfPass; split <;> rfl
@[simp] theorem endOfPass_xcur (s : State) : (endOfPass s).xcur = s.xcur := by unfold endOfPass; split <;> rfl
@[simp] theorem endOfPass_xcnt (s : State) : (endOfPass s).xcnt = s.xcnt := by unfold endOfPass; split <;> rfl
@[simp] theorem endOfPass_act (s : State) : (endOfPass s).act = s.act := by unfold endOfPass; split <;> rfl
@[simp] theorem endOfPass_inited (s : State) : (endOfPass s).inited = s.inited := by unfold endOfPass; split <;> rfl
@[simp] theorem endOfPass_trunc (s : State) : (endOfPass s).trunc = s.trunc := by unfold endOfPass; split <;> rfl
@[simp] theorem endOfPass_split (s : State) : (endOfPass s).split = s.split := by unfold endOfPass; split <;> rfl
@[simp] theorem endOfPass_fault (s : State) : (endOfPass s).fault = s.fault := by unfold endOfPass; split <;> rfl
@[simp] theorem endOfPass_fcode (s : State) : (endOfPass s).fcode = s.fcode := by unfold endOfPass; split <;> rfl
@[simp] theorem endOfPass_fword (s : State) : (endOfPass s).fword = s.fword := by unfold endOfPass; split <;> rfl
@[simp] theorem endOfPass_fctx (s : State) : (endOfPass s).fctx = s.fctx := by unfold endOfPass; split <;> rfl
@[simp] theorem endOfPass_main (s : State) : (endOfPass s).main = s.main := by unfold endOfPass; split <;> rfl
@[simp] theorem endOfPass_out (s : State) : (endOfPass s).out = s.out := by unfold endOfPass; split <;> rfl
@[simp] theorem endOfPass_agenda (s : State) : (endOfPass s).agenda = s.agenda := by unfold endOfPass; split <;> rfl
@[simp] theorem endOfPass_portCtx (s : State) : (endOfPass s).portCtx = s.portCtx := by unfold endOfPass; split <;> rfl
@[simp] theorem endOfPass_draws (s : State) : (endOfPass s).draws = s.draws := by unfold endOfPass; split <;> rfl

/-! ### emitSlot: what it leaves alone -/

@[simp] theorem emitSlot_cfg (s : State) : (emitSlot s).cfg = s.cfg := by unfold emitSlot; dsimp only; split <;> simp
@[simp] theorem emitSlot_px (s : State) : (emitSlot s).px = s.px := by unfold emitSlot; dsimp only; split <;> simp
@[simp] theorem emitSlot_tb0 (s : State) : (emitSlot s).tb0 = s.tb0 := by unfold emitSlot; dsimp only; split <;> simp
@[simp] theorem emitSlot_tb1 (s : State) : (emitSlot s).tb1 = s.tb1 := by unfold emitSlot; dsimp only; split <;> simp
@[simp] theorem emitSlot_xbuf (s : State) : (emitSlot s).xbuf = s.xbuf := by unfold emitSlot; dsimp only; split <;> simp
@[simp] theorem emitSlot_act (s : State) : (emitSlot s).act = s.act := by unfold emitSlot; dsimp only; split <;> simp
@[simp] theorem emitSlot_inited (s : State) : (emitSlot s).inited = s.inited := by unfold emitSlot; dsimp only; split <;> simp
@[simp] theorem emitSlot_trunc (s : State) : (emitSlot s).trunc = s.trunc := by unfold emitSlot; dsimp only; split <;> simp
@[simp] theorem emitSlot_split (s : State) : (emitSlot s).split = s.split := by unfold emitSlot; dsimp only; split <;> simp
@[simp] theorem emitSlot_fault (s : State) : (emitSlot s).fault = s.fault := by unfold emitSlot; dsimp only; split <;> simp
@[simp] theorem emitSlot_fcode (s : State) : (emitSlot s).fcode = s.fcode := by unfold emitSlot; dsimp only; split <;> simp
@[simp] theorem emitSlot_fword (s : State) : (emitSlot s).fword = s.fword := by unfold emitSlot; dsimp only; split <;> simp
@[simp] theorem emitSlot_fctx (s : State) : (emitSlot s).fctx = s.fctx := by unfold emitSlot; dsimp only; split <;> simp
@[simp] theorem emitSlot_main (s : State) : (emitSlot s).main = s.main := by unfold emitSlot; dsimp only; split <;> simp
@[simp] theorem emitSlot_out (s : State) : (emitSlot s).out = s.out := by unfold emitSlot; dsimp only; split <;> simp
@[simp] theorem emitSlot_agenda (s : State) : (emitSlot s).agenda = s.agenda := by unfold emitSlot; dsimp only; split <;> simp
@[simp] theorem emitSlot_portCtx (s : State) : (emitSlot s).portCtx = s.portCtx := by unfold emitSlot; dsimp only; split <;> simp
@[simp] theorem emitSlot_draws (s : State) : (emitSlot s).draws = s.draws := by unfold emitSlot; dsimp only; split <;> simp

end Sys2Proof.Machine
end

