-- ==== Sys2Proof/Laws/Memory.lean ====
section
/-! SUPPORT. The laws of PxRead, PxWrite, TbRead and TbWrite: a read after a write to the same element gives the value
written, every other element is untouched, and every operation over the state keeps the stores canonical. -/

namespace Sys2Proof.Machine

/-- Two pixel bytes share an element only if they are the same byte. -/
theorem pxElem_inj {i j : Nat} {c d : Chan} (h : pxElem i c = pxElem j d) : i = j ∧ c = d := by
  cases c <;> cases d <;> simp only [pxElem, chanIndex] at h <;>
    first
      | exact ⟨by omega, rfl⟩
      | omega

/-- The element of a pixel byte lies inside the store. -/
theorem pxElem_lt {i n : Nat} (c : Chan) (h : i < n) : pxElem i c < 3 * n := by
  cases c <;> simp only [pxElem, chanIndex] <;> omega

theorem pxRead_pxWrite_same (s : State) (i : Nat) (c : Chan) (v : Byte) (h : cellsWf s.px = true) :
    pxRead (pxWrite s i c v) i c = v := cellRead_write_same _ _ h

theorem pxRead_pxWrite_other (s : State) {i j : Nat} {c d : Chan} (v : Byte) (h : (j, d) ≠ (i, c)) :
    pxRead (pxWrite s i c v) j d = pxRead s j d :=
  cellRead_write_other v (fun he => h (by obtain ⟨rfl, rfl⟩ := pxElem_inj he; rfl))

/-- A pixel read depends on the Pixel Store only. -/
theorem pxRead_congr {s t : State} (h : t.px = s.px) (i : Nat) (c : Chan) : pxRead t i c = pxRead s i c := by
  unfold pxRead; rw [h]

/-- A slot read depends on the two buffers only. -/
theorem tbRead_congr {s t : State} (h0 : t.tb0 = s.tb0) (h1 : t.tb1 = s.tb1) (b : Buf) (w : Nat) :
    tbRead t b w = tbRead s b w := by
  cases b <;> simp only [tbRead, bufferOf, h0, h1]

theorem tbRead_tbWrite_same (s : State) (b : Buf) (w : Nat) (v : Slot) (h0 : cellsWf s.tb0 = true)
    (h1 : cellsWf s.tb1 = true) : tbRead (tbWrite s b w v) b w = v := by
  cases b
  · simpa [tbRead, bufferOf] using cellRead_write_same w v h0
  · simpa [tbRead, bufferOf] using cellRead_write_same w v h1

theorem tbRead_tbWrite_slot (s : State) (b : Buf) {w x : Nat} (v : Slot) (h : x ≠ w) :
    tbRead (tbWrite s b w v) b x = tbRead s b x := by
  cases b <;> simp [tbRead, bufferOf, cellRead_write_other v h]

theorem tbRead_tbWrite_buffer (s : State) {b d : Buf} (w x : Nat) (v : Slot) (h : d ≠ b) :
    tbRead (tbWrite s b w v) d x = tbRead s d x := by
  cases b <;> cases d <;> simp_all [tbRead, bufferOf]

/-- A slot read after a slot write, in one line. -/
theorem tbRead_tbWrite (s : State) (b d : Buf) (w x : Nat) (v : Slot) (h0 : cellsWf s.tb0 = true)
    (h1 : cellsWf s.tb1 = true) :
    tbRead (tbWrite s b w v) d x = if d = b ∧ x = w then v else tbRead s d x := by
  split
  · next h => obtain ⟨rfl, rfl⟩ := h; exact tbRead_tbWrite_same s _ _ v h0 h1
  · next h =>
    by_cases hd : d = b
    · subst hd; exact tbRead_tbWrite_slot s _ v (fun hx => h ⟨rfl, hx⟩)
    · exact tbRead_tbWrite_buffer s _ _ v hd

/-- The canonical form, store by store. -/
theorem memoryWf_iff (s : State) :
    Memory.wf s = true ↔ cellsWf s.px = true ∧ cellsWf s.tb0 = true ∧ cellsWf s.tb1 = true := by
  simp [Memory.wf, and_assoc]

theorem memoryWf_pxWrite {s : State} (i : Nat) (c : Chan) (v : Byte) (h : Memory.wf s = true) :
    Memory.wf (pxWrite s i c v) = true := by
  rw [memoryWf_iff] at h ⊢
  exact ⟨cellsWf_write _ _ h.1, h.2⟩

theorem memoryWf_tbWrite {s : State} (b : Buf) (w : Nat) (v : Slot) (h : Memory.wf s = true) :
    Memory.wf (tbWrite s b w v) = true := by
  rw [memoryWf_iff] at h ⊢
  cases b
  · exact ⟨h.1, by simpa using cellsWf_write w v h.2.1, by simpa using h.2.2⟩
  · exact ⟨h.1, by simpa using h.2.1, by simpa using cellsWf_write w v h.2.2⟩

theorem memoryWf_writePixel {s : State} (i : Nat) (r g b : Byte) (h : Memory.wf s = true) :
    Memory.wf (writePixel s i r g b) = true :=
  memoryWf_pxWrite _ _ _ (memoryWf_pxWrite _ _ _ (memoryWf_pxWrite _ _ _ h))

/-- The memory of the state after reset is canonical. -/
theorem memoryWf_reset : Memory.wf State.reset = true := rfl

end Sys2Proof.Machine
end

