-- ==== Sys2Proof/Laws/Effects.lean ====
section
/-! SUPPORT. What a step can do, said once. `Effect i s t` lists, case by case, the next states instruction i can answer
with; `exec_effect` says that it answers with no other, and `step_effect` that a step of the machine is such an effect, a
recorded ILLEGAL_COMMAND, or the wait for the host. -/

namespace Sys2Proof.Machine

/-! ### The shared operations -/

theorem whenLive_of_live {s : State} (h : Live s) (k : Out) : whenLive s k = k := by
  simp [whenLive, h.1, h.2]

theorem whenLive_next {s t : State} {k : Out} (h : whenLive s k = .next t) : Live s ∧ k = .next t := by
  unfold whenLive at h
  split at h
  · next hl =>
    split at h
    · cases h
    · next hf => exact ⟨⟨hl, by simpa using hf⟩, h⟩
  · cases h

/-- Everything an acceptance can answer (60_exceptions.md R271, R272). -/
theorem accept_next {i : Instr} {s m q t : State} (h : accept i s m q = .next t) :
    Live s ∧
      ((∃ code, s.portCtx = .main ∧ s.main = .idle ∧ mainCheck i s = some code ∧
          t = raiseFault code (encode i) .main s) ∨
        (s.portCtx = .main ∧ s.main = .idle ∧ mainCheck i s = none ∧ t = m) ∨
        (∃ code, s.portCtx = .irq ∧ irqCheck i s = some code ∧ t = raiseFault code (encode i) .irq s) ∨
        (s.portCtx = .irq ∧ irqCheck i s = none ∧ t = q)) := by
  obtain ⟨hl, h⟩ := whenLive_next h
  refine ⟨hl, ?_⟩
  split at h
  · next hp =>
    split at h
    · cases h
    · next hm =>
      split at h <;> cases h
      · next code hc => exact .inl ⟨code, hp, hm, hc, rfl⟩
      · next hc => exact .inr (.inl ⟨hp, hm, hc, rfl⟩)
  · next hp =>
    split at h <;> cases h
    · next code hc => exact .inr (.inr (.inl ⟨code, hp, hc, rfl⟩))
    · next hc => exact .inr (.inr (.inr ⟨hp, hc, rfl⟩))

/-- An accepted command of MAIN: no check applies, and the accepting step is taken. -/
theorem accept_main {i : Instr} {s m q : State} (h : AtMain s) (hc : mainCheck i s = none) :
    accept i s m q = .next m := by
  unfold accept
  rw [whenLive_of_live h.1]
  simp [h.2.1, h.2.2, hc]

/-- An accepted command of IRQ. -/
theorem accept_irq {i : Instr} {s m q : State} (h : AtIrq s) (hc : irqCheck i s = none) :
    accept i s m q = .next q := by
  unfold accept
  rw [whenLive_of_live h.1]
  simp [h.2, hc]

/-! ### What an instruction can answer -/

/-- The next states of each instruction. -/
inductive Effect : Instr → State → State → Prop where
  /-- A check of MAIN acceptance fails (60_exceptions.md R271). -/
  | mainFault {i s} (code : FaultCode) (command : i.isCommand = true) (port : s.portCtx = .main) (main : s.main = .idle)
      (check : mainCheck i s = some code) : Effect i s (raiseFault code (encode i) .main s)
  /-- A check of IRQ acceptance fails (60_exceptions.md R272). -/
  | irqFault {i s} (code : FaultCode) (command : i.isCommand = true) (port : s.portCtx = .irq) (check : irqCheck i s = some code) :
      Effect i s (raiseFault code (encode i) .irq s)
  /-- INIT is accepted. -/
  | init {s} (port : s.portCtx = .main) (main : s.main = .idle) (inited : s.inited = false) :
      Effect .init s (beginInit s)
  /-- MAIN's SET_PIXEL is accepted. -/
  | setPixelMain {s} (index r g b) (port : s.portCtx = .main) (main : s.main = .idle) (inited : s.inited = true) :
      Effect (.setPixel index r g b) s (beginSetPixel index r g b s)
  /-- IRQ's SET_PIXEL runs. -/
  | setPixelIrq {s} (index r g b) (port : s.portCtx = .irq) (inited : s.inited = true) :
      Effect (.setPixel index r g b) s (irqSetPixel index r g b s)
  /-- MAIN's GET_PIXEL is accepted. -/
  | getPixelMain {s} (index) (port : s.portCtx = .main) (main : s.main = .idle) :
      Effect (.getPixel index) s (beginGetPixel index s)
  /-- IRQ's GET_PIXEL runs. -/
  | getPixelIrq {s} (index) (port : s.portCtx = .irq) : Effect (.getPixel index) s (irqGetPixel index s)
  /-- SHOW is accepted. -/
  | showFrame {s} (port : s.portCtx = .main) (main : s.main = .idle) (inited : s.inited = true) :
      Effect .showFrame s (beginShow s)
  /-- CLEAR is accepted. -/
  | clear {s} (port : s.portCtx = .main) (main : s.main = .idle) (inited : s.inited = true) :
      Effect .clear s (beginClear s)
  /-- A bare PX_WRITE. -/
  | pxWriteBare {s} (index ch val) (c : Chan) (chan : chanOfBits ch = some c) (inRange : hasPixel s.cfg index.toNat = true)
      (main : s.main = .idle) : Effect (.pxWrite index ch val) s (pxWrite s index.toNat c val)
  /-- A PX_WRITE of a SET_PIXEL in progress. -/
  | pxWriteSetp {s} (index ch val) (c : Chan) (word g r b pend) (chan : chanOfBits ch = some c)
      (inRange : hasPixel s.cfg index.toNat = true) (main : s.main = .busy word (.setp index g r b pend))
      (mem : c ∈ pend) (byte : val = chanByte g r b c) :
      Effect (.pxWrite index ch val) s
        (setMain (afterSetp word index g r b (without pend c)) (pxWrite s index.toNat c val))
  /-- A PX_WRITE of a zeroing phase. -/
  | pxWriteClr {s} (index ch) (c : Chan) (word kind pend) (chan : chanOfBits ch = some c)
      (inRange : hasPixel s.cfg index.toNat = true) (main : s.main = .busy word (.clr kind pend))
      (mem : (index.toNat, c) ∈ pend) :
      Effect (.pxWrite index ch 0) s
        (setMain (afterClr s word kind (without pend (index.toNat, c))) (pxWrite s index.toNat c 0))
  /-- A PX_READ that is not the last of its GET_PIXEL. -/
  | pxReadMore {s} (index ch) (c : Chan) (word got pend) (chan : chanOfBits ch = some c)
      (inRange : hasPixel s.cfg index.toNat = true) (main : s.main = .busy word (.getp index got pend)) (mem : c ∈ pend)
      (more : without pend c ≠ []) :
      Effect (.pxRead index ch) s
        (setMain (.busy word (.getp index (gotSet got c (pxRead s index.toNat c)) (without pend c))) s)
  /-- The last PX_READ of a GET_PIXEL responds. -/
  | pxReadLast {s} (index ch) (c : Chan) (word got pend resp) (chan : chanOfBits ch = some c)
      (inRange : hasPixel s.cfg index.toNat = true) (main : s.main = .busy word (.getp index got pend)) (mem : c ∈ pend)
      (last : without pend c = []) (all : respGot (gotSet got c (pxRead s index.toNat c)) = some resp) :
      Effect (.pxRead index ch) s (setMain .idle (respond .main resp s))
  /-- ENC_WRITE. -/
  | encWrite {s} (word kind T) (slot : BitVec 24) (main : s.main = .busy word (.enc kind T slot.toNat))
      (inRange : slot.toNat < bufferSize s.cfg) (buffer : hasBuffer s.cfg T = true) :
      Effect (.encWrite T slot) s
        (setMain (afterEnc s.cfg word kind T slot.toNat) (tbWrite s T slot.toNat (encSlot s slot.toNat)))
  /-- XFER_STOP. -/
  | xferStop {s} (word kind T) (main : s.main = .busy word (.stop kind T)) :
      Effect .xferStop s (setMain (.busy word (.start kind T)) (stopIfRunning s))
  /-- XFER_START of a RUNNING engine. -/
  | startFault {s} (word kind T) (main : s.main = .busy word (.start kind T)) (running : s.xstate = .running) :
      Effect (.xferStart T) s (raiseFault .startWhileRunning word .main s)
  /-- XFER_START of a STOPPED engine. -/
  | xferStart {s} (word kind T) (main : s.main = .busy word (.start kind T)) (stopped : s.xstate = .stopped)
      (buffer : hasBuffer s.cfg T = true) : Effect (.xferStart T) s (setMain .idle (startOrFail T s))
  /-- XFER_EMIT. -/
  | xferEmit {s} (running : s.xstate = .running) (slot : hasSlot s.cfg s.xbuf s.xcur.toNat = true) :
      Effect .xferEmit s (emitSlot s)

theorem mainCheck_inited {s : State} {code : FaultCode} :
    (if s.inited then none else some code) = none ↔ s.inited = true := by
  cases s.inited <;> simp

/-- An instruction answers a next state only as `Effect` lists, and only when the block is live. -/
theorem exec_effect {i : Instr} {s t : State} (h : exec i s = .next t) : Live s ∧ Effect i s t := by
  cases i with
  | init =>
    obtain ⟨hl, ⟨c, hp, hm, hc, rfl⟩ | ⟨hp, hm, hc, rfl⟩ | ⟨c, hp, hc, rfl⟩ | ⟨_, hc, _⟩⟩ := accept_next (q := s) h
    · exact ⟨hl, .mainFault c rfl hp hm hc⟩
    · exact ⟨hl, .init hp hm (by cases hi : s.inited <;> simp_all [mainCheck])⟩
    · exact ⟨hl, .irqFault c rfl hp hc⟩
    · cases hc
  | setPixel index r g b =>
    obtain ⟨hl, ⟨c, hp, hm, hc, rfl⟩ | ⟨hp, hm, hc, rfl⟩ | ⟨c, hp, hc, rfl⟩ | ⟨hp, hc, rfl⟩⟩ := accept_next h
    · exact ⟨hl, .mainFault c rfl hp hm hc⟩
    · exact ⟨hl, .setPixelMain _ _ _ _ hp hm (mainCheck_inited.mp hc)⟩
    · exact ⟨hl, .irqFault c rfl hp hc⟩
    · exact ⟨hl, .setPixelIrq _ _ _ _ hp (mainCheck_inited.mp hc)⟩
  | getPixel index =>
    change accept (.getPixel index) s (beginGetPixel index s) (irqGetPixel index s) = _ at h
    obtain ⟨hl, ⟨c, hp, hm, hc, rfl⟩ | ⟨hp, hm, hc, rfl⟩ | ⟨c, hp, hc, rfl⟩ | ⟨hp, hc, rfl⟩⟩ := accept_next h
    · cases hc
    · exact ⟨hl, .getPixelMain _ hp hm⟩
    · cases hc
    · exact ⟨hl, .getPixelIrq _ hp⟩
  | showFrame =>
    obtain ⟨hl, ⟨c, hp, hm, hc, rfl⟩ | ⟨hp, hm, hc, rfl⟩ | ⟨c, hp, hc, rfl⟩ | ⟨_, hc, _⟩⟩ := accept_next (q := s) h
    · exact ⟨hl, .mainFault c rfl hp hm hc⟩
    · exact ⟨hl, .showFrame hp hm (mainCheck_inited.mp hc)⟩
    · exact ⟨hl, .irqFault c rfl hp hc⟩
    · cases hc
  | clear =>
    obtain ⟨hl, ⟨c, hp, hm, hc, rfl⟩ | ⟨hp, hm, hc, rfl⟩ | ⟨c, hp, hc, rfl⟩ | ⟨_, hc, _⟩⟩ := accept_next (q := s) h
    · exact ⟨hl, .mainFault c rfl hp hm hc⟩
    · exact ⟨hl, .clear hp hm (mainCheck_inited.mp hc)⟩
    · exact ⟨hl, .irqFault c rfl hp hc⟩
    · cases hc
  | pxWrite index ch val =>
    obtain ⟨hl, h⟩ := whenLive_next h
    refine ⟨hl, ?_⟩
    split at h
    · cases h
    · next c hch =>
      split at h
      · next hpx =>
        split at h
        · next hm => cases h; exact .pxWriteBare _ _ _ c hch hpx hm
        · next word i g r b pend hm =>
          split at h
          · next hc =>
            obtain ⟨rfl, hc, hv⟩ := hc
            cases h
            exact .pxWriteSetp _ _ _ c _ _ _ _ _ hch hpx hm hc hv
          · cases h
        · next word kind pend hm =>
          split at h
          · next hc =>
            obtain ⟨hc, rfl⟩ := hc
            cases h
            exact .pxWriteClr _ _ c _ _ _ hch hpx hm hc
          · cases h
        all_goals cases h
      · cases h
  | pxRead index ch =>
    obtain ⟨hl, h⟩ := whenLive_next h
    refine ⟨hl, ?_⟩
    split at h
    · cases h
    · next c hch =>
      split at h
      · next hpx =>
        split at h
        · next word i got pend hm =>
          split at h
          · next hc =>
            obtain ⟨rfl, hc⟩ := hc
            unfold afterGetp at h
            split at h
            · next hlast =>
              split at h <;> cases h
              · next hr => exact .pxReadLast _ _ c _ _ _ _ hch hpx hm hc hlast hr
            · next hmore =>
              cases h
              exact .pxReadMore _ _ c _ _ _ hch hpx hm hc hmore
          · cases h
        all_goals cases h
      · cases h
  | encWrite buf slot =>
    obtain ⟨hl, h⟩ := whenLive_next h
    refine ⟨hl, ?_⟩
    split at h
    · next word kind T w hm =>
      split at h
      · next hc =>
        obtain ⟨rfl, rfl, hw⟩ := hc
        split at h <;> cases h
        next hb => exact .encWrite _ _ _ _ hm hw hb
      · cases h
    all_goals cases h
  | xferStop =>
    obtain ⟨hl, h⟩ := whenLive_next h
    refine ⟨hl, ?_⟩
    split at h
    · next hm => cases h; exact .xferStop _ _ _ hm
    all_goals cases h
  | xferStart buf =>
    obtain ⟨hl, h⟩ := whenLive_next h
    refine ⟨hl, ?_⟩
    split at h
    · next word kind T hm =>
      by_cases hT : T = buf
      · rw [if_pos hT] at h
        rw [← hT]
        split at h
        · next hx => cases h; exact .startFault _ _ _ hm hx
        · next hx =>
          split at h <;> cases h
          next hb => exact .xferStart _ _ _ hm hx hb
      · rw [if_neg hT] at h
        cases h
    all_goals cases h
  | xferEmit =>
    obtain ⟨hl, h⟩ := whenLive_next h
    refine ⟨hl, ?_⟩
    split at h
    · cases h
    · next hx =>
      split at h <;> cases h
      next hs => exact .xferEmit hx hs

/-! ### What a step can answer -/

/-- The state an instruction of a step starts from: the state before the step but for the model's own fields. -/
def Reseat (s u : State) : Prop := ∃ a p d, u = { s with agenda := a, portCtx := p, draws := d }

theorem reseat_live {s u : State} (h : Reseat s u) (hl : Live s) : Live u := by
  obtain ⟨a, p, d, rfl⟩ := h
  exact hl

theorem decodePort_isCommand {w : Word} {i : Instr} (h : decodePort w = some i) : i.isCommand = true := by
  simp only [decodePort, Option.map_eq_some_iff] at h
  obtain ⟨r, hr, rfl⟩ := h
  have hm := List.mem_of_find?_eq_some hr
  cases r <;> simp_all [cmdRows, Row.build, Instr.isCommand, Instr.row]

theorem afterPick_reseat (s : State) : Reseat s (afterPick s) := by
  unfold afterPick
  split
  · exact ⟨s.agenda, s.portCtx, s.draws, rfl⟩
  · exact ⟨s.agenda, s.portCtx, s.draws, rfl⟩
  · exact ⟨s.agenda, s.portCtx, s.draws + 1, rfl⟩

/-- A step waits for the host, or records an illegal word, or is the effect of a command, or of the micro-step it takes. -/
theorem step_effect_taken {s t : State} (h : step s = .next t) :
    Live s ∧
      ((microTaken s = none ∧
          (t = s ∨ (∃ u w ctx, Reseat s u ∧ t = raiseFault .illegalCommand w ctx u) ∨
            (∃ i u, i.isCommand = true ∧ Reseat s u ∧ Effect i u t))) ∨
        (∃ i u, microTaken s = some i ∧ Reseat s u ∧ Effect i u t)) := by
  obtain ⟨hl, h⟩ := whenLive_next h
  refine ⟨hl, ?_⟩
  split at h
  · next turn rest hag =>
    cases turn with
    | issue ctx w =>
      have hu : Reseat s (atPort ctx { s with agenda := rest }) := ⟨rest, ctx, s.draws, rfl⟩
      refine .inl ⟨by simp [microTaken, hag, turnMicro], ?_⟩
      simp only [takeTurn, issueWord] at h
      split at h
      · next hd => exact .inr (.inr ⟨_, _, decodePort_isCommand hd, hu, (exec_effect h).2⟩)
      · unfold illegalWord at h
        split at h <;> cases h
        · exact .inr (.inl ⟨_, _, _, hu, rfl⟩)
        · exact .inr (.inl ⟨_, _, _, hu, rfl⟩)
    | micro w =>
      simp only [takeTurn, takeMicro] at h
      split at h
      · cases h
      · next i hd =>
        split at h
        · exact .inr ⟨_, _, by simp [microTaken, hag, turnMicro, hd], ⟨rest, s.portCtx, s.draws, rfl⟩, (exec_effect h).2⟩
        · cases h
  · next hag =>
    unfold freeRun at h
    split at h
    · next hn => cases h; exact .inl ⟨by simp [microTaken, hag, hn], .inl rfl⟩
    · next i hi => exact .inr ⟨_, _, by simp [microTaken, hag, hi], afterPick_reseat s, (exec_effect h).2⟩

/-- A step waits for the host, or records an illegal word, or is the effect of an instruction. -/
theorem step_effect {s t : State} (h : step s = .next t) :
    Live s ∧
      (t = s ∨ (∃ u w ctx, Reseat s u ∧ t = raiseFault .illegalCommand w ctx u) ∨ (∃ i u, Reseat s u ∧ Effect i u t)) := by
  obtain ⟨hl, ⟨_, rfl | hf | ⟨i, u, _, hu, he⟩⟩ | ⟨i, u, _, hu, he⟩⟩ := step_effect_taken h
  · exact ⟨hl, .inl rfl⟩
  · exact ⟨hl, .inr (.inl hf)⟩
  · exact ⟨hl, .inr (.inr ⟨i, u, hu, he⟩)⟩
  · exact ⟨hl, .inr (.inr ⟨i, u, hu, he⟩)⟩

end Sys2Proof.Machine
end

