-- ==== Sys2Proof/Laws/Exec.lean ====
section
/-! SUPPORT. Each instruction's answer where it completes, as one equation over its meaning's own operations, and the small
facts the equations are used with. -/

namespace Sys2Proof.Machine

/-! ### Channels, pending sets, configurations -/

@[simp] theorem chanOfBits_chanBits (c : Chan) : chanOfBits (chanBits c) = some c := by cases c <;> rfl

/-- A field names the channel whose field it is. -/
theorem chanBits_of_some {ch : BitVec 2} {c : Chan} (h : chanOfBits ch = some c) : chanBits c = ch := by
  unfold chanOfBits at h
  split at h
  · next hc => cases h; exact hc.symm
  · split at h
    · next hc => cases h; exact hc.symm
    · split at h
      · next hc => cases h; exact hc.symm
      · cases h

/-- Nothing is left when the element removed was the only one. -/
theorem without_nil {α : Type} [DecidableEq α] {l : List α} {x : α} : without l x = [] ↔ ∀ y ∈ l, y = x := by
  simp [without, List.filter_eq_nil_iff]

theorem mem_without {α : Type} [DecidableEq α] {l : List α} {x y : α} : y ∈ without l x ↔ y ∈ l ∧ y ≠ x := by
  simp [without, List.mem_filter]

theorem without_sublist {α : Type} [DecidableEq α] (l : List α) (x : α) : (without l x).Sublist l :=
  List.filter_sublist

theorem mem_allChans (c : Chan) : c ∈ allChans := by cases c <;> simp [allChans]

/-- Every byte of every pixel is there (42_transfer_controller.md R216). -/
theorem mem_allPixelBytes {c : Config} {i : Nat} {ch : Chan} : (i, ch) ∈ allPixelBytes c ↔ i < c.ledCount := by
  simp [allPixelBytes, mem_allChans]

/-- What a legal configuration bounds (00_scope.md R8, R9). -/
theorem legal_bounds {c : Config} (h : legal c = true) :
    1 ≤ c.ledCount ∧ c.ledCount ≤ 65535 ∧ 1 ≤ bufferSize c ∧ bufferSize c ≤ 2 ^ 24 ∧ dataSlots c < bufferSize c := by
  simp only [legal, decide_eq_true_eq] at h
  unfold bufferSize dataSlots at *
  omega

theorem hasPixel_iff {c : Config} {i : Nat} : hasPixel c i = true ↔ i < c.ledCount := by simp [hasPixel]

theorem hasBuffer_iff {c : Config} {b : Buf} : hasBuffer c b = true ↔ b = .b0 ∨ c.doubleBuffer = true := by
  simp [hasBuffer]

theorem hasSlot_iff {c : Config} {b : Buf} {w : Nat} :
    hasSlot c b w = true ↔ (b = .b0 ∨ c.doubleBuffer = true) ∧ w < bufferSize c := by
  simp [hasSlot, hasBuffer]

/-! ### Acceptance -/

theorem accept_main_fault {s m q : State} {code : FaultCode} (i : Instr) (h : AtMain s) (hc : mainCheck i s = some code) :
    accept i s m q = .next (raiseFault code (encode i) .main s) := by
  unfold accept
  rw [whenLive_of_live h.1]
  simp [h.2.1, h.2.2, hc]

theorem accept_irq_fault {s m q : State} {code : FaultCode} (i : Instr) (h : AtIrq s) (hc : irqCheck i s = some code) :
    accept i s m q = .next (raiseFault code (encode i) .irq s) := by
  unfold accept
  rw [whenLive_of_live h.1]
  simp [h.2, hc]

/-! ### The commands -/

theorem exec_init {s : State} (h : AtMain s) (hi : s.inited = false) : exec .init s = .next (beginInit s) :=
  accept_main (q := s) h (by simp [mainCheck, hi])

theorem exec_showFrame {s : State} (h : AtMain s) (hi : s.inited = true) : exec .showFrame s = .next (beginShow s) :=
  accept_main (q := s) h (by simp [mainCheck, hi])

theorem exec_clear {s : State} (h : AtMain s) (hi : s.inited = true) : exec .clear s = .next (beginClear s) :=
  accept_main (q := s) h (by simp [mainCheck, hi])

theorem exec_setPixel_main {s : State} (index : BitVec 16) (r g b : Byte) (h : AtMain s) (hi : s.inited = true) :
    exec (.setPixel index r g b) s = .next (beginSetPixel index r g b s) :=
  accept_main (i := .setPixel index r g b) h (by simp [mainCheck, hi])

theorem exec_setPixel_irq {s : State} (index : BitVec 16) (r g b : Byte) (h : AtIrq s) (hi : s.inited = true) :
    exec (.setPixel index r g b) s = .next (irqSetPixel index r g b s) :=
  accept_irq (i := .setPixel index r g b) h (by simp [irqCheck, hi])

theorem exec_getPixel_main {s : State} (index : BitVec 16) (h : AtMain s) :
    exec (.getPixel index) s = .next (beginGetPixel index s) :=
  accept_main (i := .getPixel index) h rfl

theorem exec_getPixel_irq {s : State} (index : BitVec 16) (h : AtIrq s) :
    exec (.getPixel index) s = .next (irqGetPixel index s) :=
  accept_irq (i := .getPixel index) h rfl

/-! ### The micro-steps -/

theorem exec_pxWrite_bare {s : State} {index : BitVec 16} (c : Chan) (v : Byte) (hl : Live s)
    (hr : index.toNat < s.cfg.ledCount) (hm : s.main = .idle) :
    exec (.pxWrite index (chanBits c) v) s = .next (pxWrite s index.toNat c v) := by
  have hp := hasPixel_iff.mpr hr
  simp only [exec, execPxWrite]
  rw [whenLive_of_live hl, chanOfBits_chanBits]
  simp [hp, hm]

theorem exec_pxWrite_setp {s : State} {word : Word} {index : BitVec 16} {g r b : Byte} {pend : List Chan} {c : Chan}
    (hl : Live s) (hr : index.toNat < s.cfg.ledCount) (hm : s.main = .busy word (.setp index g r b pend))
    (hc : c ∈ pend) :
    exec (.pxWrite index (chanBits c) (chanByte g r b c)) s =
      .next (setMain (afterSetp word index g r b (without pend c)) (pxWrite s index.toNat c (chanByte g r b c))) := by
  have hp := hasPixel_iff.mpr hr
  simp only [exec, execPxWrite]
  rw [whenLive_of_live hl, chanOfBits_chanBits]
  simp [hp, hm, hc]

theorem exec_pxWrite_clr {s : State} {word : Word} {kind : ClearKind} {pend : List (Nat × Chan)} {index : BitVec 16}
    {c : Chan} (hl : Live s) (hr : index.toNat < s.cfg.ledCount) (hm : s.main = .busy word (.clr kind pend))
    (hc : (index.toNat, c) ∈ pend) :
    exec (.pxWrite index (chanBits c) 0) s =
      .next (setMain (afterClr s word kind (without pend (index.toNat, c))) (pxWrite s index.toNat c 0)) := by
  have hp := hasPixel_iff.mpr hr
  simp only [exec, execPxWrite]
  rw [whenLive_of_live hl, chanOfBits_chanBits]
  simp [hp, hm, hc]

theorem exec_pxRead {s : State} {word : Word} {index : BitVec 16} {got : Got} {pend : List Chan} {c : Chan}
    (hl : Live s) (hr : index.toNat < s.cfg.ledCount) (hm : s.main = .busy word (.getp index got pend)) (hc : c ∈ pend) :
    exec (.pxRead index (chanBits c)) s =
      afterGetp s word index (gotSet got c (pxRead s index.toNat c)) (without pend c) := by
  have hp := hasPixel_iff.mpr hr
  simp only [exec, execPxRead]
  rw [whenLive_of_live hl, chanOfBits_chanBits]
  simp [hp, hm, hc]

theorem exec_encWrite {s : State} {word : Word} {kind : ShowKind} {T : Buf} {slot : BitVec 24} (hl : Live s)
    (hm : s.main = .busy word (.enc kind T slot.toNat)) (hs : slot.toNat < bufferSize s.cfg)
    (hb : T = .b0 ∨ s.cfg.doubleBuffer = true) :
    exec (.encWrite T slot) s =
      .next (setMain (afterEnc s.cfg word kind T slot.toNat) (tbWrite s T slot.toNat (encSlot s slot.toNat))) := by
  have hbuf := hasBuffer_iff.mpr hb
  simp only [exec, execEncWrite]
  rw [whenLive_of_live hl]
  simp [hm, hs, hbuf]

theorem exec_xferStop {s : State} {word : Word} {kind : ShowKind} {T : Buf} (hl : Live s)
    (hm : s.main = .busy word (.stop kind T)) :
    exec .xferStop s = .next (setMain (.busy word (.start kind T)) (stopIfRunning s)) := by
  simp only [exec, execXferStop]
  rw [whenLive_of_live hl]
  simp [hm]

theorem exec_xferStart {s : State} {word : Word} {kind : ShowKind} {T : Buf} (hl : Live s)
    (hm : s.main = .busy word (.start kind T)) (hx : s.xstate = .stopped) (hb : T = .b0 ∨ s.cfg.doubleBuffer = true) :
    exec (.xferStart T) s = .next (setMain .idle (startOrFail T s)) := by
  have hbuf := hasBuffer_iff.mpr hb
  simp only [exec, execXferStart]
  rw [whenLive_of_live hl]
  simp [hm, hx, hbuf]

theorem exec_xferStart_running {s : State} {word : Word} {kind : ShowKind} {T : Buf} (hl : Live s)
    (hm : s.main = .busy word (.start kind T)) (hx : s.xstate = .running) :
    exec (.xferStart T) s = .next (raiseFault .startWhileRunning word .main s) := by
  simp only [exec, execXferStart]
  rw [whenLive_of_live hl]
  simp [hm, hx]

theorem exec_xferEmit {s : State} (hl : Live s) (hx : s.xstate = .running) (hc : s.xcur.toNat < bufferSize s.cfg)
    (hb : s.xbuf = .b0 ∨ s.cfg.doubleBuffer = true) : exec .xferEmit s = .next (emitSlot s) := by
  have hs := hasSlot_iff.mpr ⟨hb, hc⟩
  simp only [exec, execXferEmit]
  rw [whenLive_of_live hl]
  simp [hx, hs]

/-! ### A stop, a start and an emit, field by field -/

/-- With XFER_MAY_FAIL = false nothing is drawn and nothing fails (42_transfer_controller.md R229). -/
theorem stopIfRunning_running {s : State} (hx : s.xstate = .running) (hf : s.cfg.xferMayFail = false) :
    stopIfRunning s = stopEngine s := by
  simp [stopIfRunning, hx, failDraw, hf, afterDraw]

theorem stopIfRunning_stopped {s : State} (hx : s.xstate = .stopped) : stopIfRunning s = s := by
  simp [stopIfRunning, hx]

theorem startOrFail_certain {s : State} (T : Buf) (hf : s.cfg.xferMayFail = false) : startOrFail T s = startEngine T s := by
  simp [startOrFail, failDraw, hf, afterDraw]

/-- An XFER_EMIT writes XCNT, XCUR, XSTATE and TRACE and nothing else. -/
theorem emitSlot_frame (s : State) :
    emitSlot s = { s with
      xcnt := xcntAfterEmit s, xcur := xcurAfterEmit s, xstate := (emitSlot s).xstate, trace := (emitSlot s).trace } := by
  unfold emitSlot endOfPass
  dsimp only
  split <;> [skip; split] <;> rfl

/-- XCNT stays in its range. -/
theorem xcntAfterEmit_toNat {s : State} (h : legal s.cfg = true) :
    (xcntAfterEmit s).toNat = min (s.xcnt.toNat + 1) (bufferSize s.cfg) := by
  have := legal_bounds h
  rw [xcntAfterEmit, BitVec.toNat_ofNat]
  omega

/-- XCUR after an emit: the next slot, or slot 0. -/
theorem xcurAfterEmit_toNat {s : State} (h : legal s.cfg = true) :
    (xcurAfterEmit s).toNat = if s.xcur.toNat + 1 < bufferSize s.cfg then s.xcur.toNat + 1 else 0 := by
  have := legal_bounds h
  unfold xcurAfterEmit passContinues
  by_cases hc : s.xcur.toNat + 1 < bufferSize s.cfg
  · simp only [hc, decide_true, if_true]
    rw [BitVec.toNat_add, Nat.mod_eq_of_lt (by simp; omega)]
    rfl
  · simp [hc]

/-! ### Several instructions in a row -/

theorem execAll_cons {i : Instr} {is : List Instr} {s t : State} (h : exec i s = .next t) :
    execAll (i :: is) s = execAll is t := by
  simp [execAll, h]

theorem execAll_append {is js : List Instr} {s t : State} (h : execAll is s = .next t) :
    execAll (is ++ js) s = execAll js t := by
  induction is generalizing s with
  | nil => cases h; rfl
  | cons i is ih =>
    rw [List.cons_append]
    cases hi : exec i s with
    | next u =>
      rw [execAll_cons hi] at h ⊢
      exact ih h
    | fault f => simp [execAll, hi] at h
    | refused r => simp [execAll, hi] at h

/-! ### The step -/

theorem step_issue {s : State} {ctx : Ctx} {w : Word} {rest : List Turn} (hl : Live s)
    (ha : s.agenda = .issue ctx w :: rest) : step s = issueWord ctx w { s with agenda := rest } := by
  unfold step stepOnce
  rw [whenLive_of_live hl, ha]
  rfl

theorem step_micro {s : State} {w : Word} {rest : List Turn} (hl : Live s) (ha : s.agenda = .micro w :: rest) :
    step s = takeMicro w { s with agenda := rest } := by
  unfold step stepOnce
  rw [whenLive_of_live hl, ha]
  rfl

theorem step_free {s : State} (hl : Live s) (ha : s.agenda = []) : step s = freeRun s := by
  unfold step stepOnce
  rw [whenLive_of_live hl, ha]

end Sys2Proof.Machine
end

