-- ==== Sys2Proof/Laws/Words.lean ====
section
/-! SUPPORT. The laws of the encoding: the fields of an encoded word, and the row it spells. -/

namespace Sys2Proof

@[simp] theorem fieldIndex_setPixel (i : BitVec 16) (r g b : Byte) : fieldIndex (encode (.setPixel i r g b)) = i := by
  apply BitVec.eq_of_getLsbD_eq
  intro k hk
  simp [fieldIndex, encode]
  grind

@[simp] theorem fieldR_setPixel (i : BitVec 16) (r g b : Byte) : fieldR (encode (.setPixel i r g b)) = r := by
  apply BitVec.eq_of_getLsbD_eq
  intro k hk
  simp [fieldR, encode]
  grind

@[simp] theorem fieldG_setPixel (i : BitVec 16) (r g b : Byte) : fieldG (encode (.setPixel i r g b)) = g := by
  apply BitVec.eq_of_getLsbD_eq
  intro k hk
  simp [fieldG, encode]
  grind

@[simp] theorem fieldB_setPixel (i : BitVec 16) (r g b : Byte) : fieldB (encode (.setPixel i r g b)) = b := by
  apply BitVec.eq_of_getLsbD_eq
  intro k hk
  simp [fieldB, encode]
  grind

@[simp] theorem fieldIndex_getPixel (i : BitVec 16) : fieldIndex (encode (.getPixel i)) = i := by
  apply BitVec.eq_of_getLsbD_eq
  intro k hk
  simp [fieldIndex, encode]
  grind

@[simp] theorem fieldIndex_pxWrite (i : BitVec 16) (c : BitVec 2) (v : Byte) : fieldIndex (encode (.pxWrite i c v)) = i := by
  apply BitVec.eq_of_getLsbD_eq
  intro k hk
  simp [fieldIndex, encode]
  grind

@[simp] theorem fieldCh_pxWrite (i : BitVec 16) (c : BitVec 2) (v : Byte) : fieldCh (encode (.pxWrite i c v)) = c := by
  apply BitVec.eq_of_getLsbD_eq
  intro k hk
  simp [fieldCh, encode]
  grind

@[simp] theorem fieldB_pxWrite (i : BitVec 16) (c : BitVec 2) (v : Byte) : fieldB (encode (.pxWrite i c v)) = v := by
  apply BitVec.eq_of_getLsbD_eq
  intro k hk
  simp [fieldB, encode]
  grind

@[simp] theorem fieldIndex_pxRead (i : BitVec 16) (c : BitVec 2) : fieldIndex (encode (.pxRead i c)) = i := by
  apply BitVec.eq_of_getLsbD_eq
  intro k hk
  simp [fieldIndex, encode]
  grind

@[simp] theorem fieldCh_pxRead (i : BitVec 16) (c : BitVec 2) : fieldCh (encode (.pxRead i c)) = c := by
  apply BitVec.eq_of_getLsbD_eq
  intro k hk
  simp [fieldCh, encode]
  grind

@[simp] theorem fieldSlot_encWrite (b : Buf) (w : BitVec 24) : fieldSlot (encode (.encWrite b w)) = w := by
  apply BitVec.eq_of_getLsbD_eq
  intro k hk
  simp [fieldSlot, encode]
  grind

@[simp] theorem ofBit_bit (b : Buf) : Buf.ofBit b.bit = b := by cases b <;> rfl

@[simp] theorem fieldBuf_encWrite (b : Buf) (w : BitVec 24) : fieldBuf (encode (.encWrite b w)) = b := by
  have h : (encode (.encWrite b w)).extractLsb' 48 1 = b.bit := by
    apply BitVec.eq_of_getLsbD_eq
    intro k hk
    simp [encode]
    grind
  rw [fieldBuf, h, ofBit_bit]

@[simp] theorem fieldBuf_xferStart (b : Buf) : fieldBuf (encode (.xferStart b)) = b := by cases b <;> decide

/-- An encoded word, built back by its row, is the instruction. -/
theorem build_encode (i : Instr) : i.row.build (encode i) = i := by
  cases i <;> simp [Instr.row, Row.build]

/-- A word made of two parts spells a row when each part spells its part of the row. -/
theorem hits_parts {m n : Nat} (a c e : BitVec m) (b d f : BitVec n) (h : a &&& c = e) (h' : b &&& d = f) :
    (a ++ b) &&& (c ++ d) = e ++ f := by
  rw [BitVec.and_append, h, h']

/-- An operand field lies where the mask is 0. -/
theorem hits_free {n : Nat} (b : BitVec n) : b &&& 0#n = 0#n := BitVec.and_zero

end Sys2Proof
end

