-- ==== Sys2Proof/Laws/PerInstr.lean ====
section
/-! SUPPORT. Statements about every instruction as syntax, one lemma per constructor. Family RowMatch: the word of an
instruction spells its own row of the opcode table (30_encoding.md R104, R107). -/

namespace Sys2Proof.Laws.RowMatch

/-- The word of the instruction spells the instruction's own row: `w & mask = match`. -/
def Statement (i : Instr) : Prop := i.row.hits (encode i) = true

theorem init : Statement .init := by
  unfold Statement
  decide

theorem setPixel (index : BitVec 16) (r g b : Byte) : Statement (.setPixel index r g b) := by
  have hm : Row.mask .setPixel = 0xFFFF#16 ++ 0#16 ++ 0xFF#8 ++ 0#8 ++ 0#8 ++ 0#8 := by decide
  have hp : Row.pattern .setPixel = 0x0200#16 ++ 0#16 ++ 0#8 ++ 0#8 ++ 0#8 ++ 0#8 := by decide
  rw [Statement, Instr.row, Row.hits, beq_iff_eq, hm, hp]
  exact hits_parts _ _ _ _ _ _ (hits_parts _ _ _ _ _ _ (hits_parts _ _ _ _ _ _ (hits_parts _ _ _ _ _ _ (hits_parts _ _ _ _ _ _ (by decide)
    (hits_free index))
    (by decide))
    (hits_free r))
    (hits_free g))
    (hits_free b)

theorem getPixel (index : BitVec 16) : Statement (.getPixel index) := by
  have hm : Row.mask .getPixel = 0xFFFF#16 ++ 0#16 ++ 0xFFFFFFFF#32 := by decide
  have hp : Row.pattern .getPixel = 0x0300#16 ++ 0#16 ++ 0#32 := by decide
  rw [Statement, Instr.row, Row.hits, beq_iff_eq, hm, hp]
  exact hits_parts _ _ _ _ _ _ (hits_parts _ _ _ _ _ _ (by decide)
    (hits_free index))
    (by decide)

theorem showFrame : Statement .showFrame := by
  unfold Statement
  decide

theorem clear : Statement .clear := by
  unfold Statement
  decide

theorem pxWrite (index : BitVec 16) (ch : BitVec 2) (val : Byte) : Statement (.pxWrite index ch val) := by
  have hm : Row.mask .pxWrite = 0xFFFF#16 ++ 0#16 ++ 0x3F#6 ++ 0#2 ++ 0xFFFF#16 ++ 0#8 := by decide
  have hp : Row.pattern .pxWrite = 0x8000#16 ++ 0#16 ++ 0#6 ++ 0#2 ++ 0#16 ++ 0#8 := by decide
  rw [Statement, Instr.row, Row.hits, beq_iff_eq, hm, hp]
  exact hits_parts _ _ _ _ _ _ (hits_parts _ _ _ _ _ _ (hits_parts _ _ _ _ _ _ (hits_parts _ _ _ _ _ _ (hits_parts _ _ _ _ _ _ (by decide)
    (hits_free index))
    (by decide))
    (hits_free ch))
    (by decide))
    (hits_free val)

theorem pxRead (index : BitVec 16) (ch : BitVec 2) : Statement (.pxRead index ch) := by
  have hm : Row.mask .pxRead = 0xFFFF#16 ++ 0#16 ++ 0x3F#6 ++ 0#2 ++ 0xFFFFFF#24 := by decide
  have hp : Row.pattern .pxRead = 0x8100#16 ++ 0#16 ++ 0#6 ++ 0#2 ++ 0#24 := by decide
  rw [Statement, Instr.row, Row.hits, beq_iff_eq, hm, hp]
  exact hits_parts _ _ _ _ _ _ (hits_parts _ _ _ _ _ _ (hits_parts _ _ _ _ _ _ (hits_parts _ _ _ _ _ _ (by decide)
    (hits_free index))
    (by decide))
    (hits_free ch))
    (by decide)

theorem encWrite (buf : Buf) (slot : BitVec 24) : Statement (.encWrite buf slot) := by
  have hm : Row.mask .encWrite = 0x7FFF#15 ++ 0#1 ++ 0#24 ++ 0xFFFFFF#24 := by decide
  have hp : Row.pattern .encWrite = 0x4100#15 ++ 0#1 ++ 0#24 ++ 0#24 := by decide
  rw [Statement, Instr.row, Row.hits, beq_iff_eq, hm, hp]
  exact hits_parts _ _ _ _ _ _ (hits_parts _ _ _ _ _ _ (hits_parts _ _ _ _ _ _ (by decide)
    (hits_free buf.bit))
    (hits_free slot))
    (by decide)

theorem xferStop : Statement .xferStop := by
  unfold Statement
  decide

theorem xferStart (buf : Buf) : Statement (.xferStart buf) := by
  unfold Statement
  cases buf <;> decide

theorem xferEmit : Statement .xferEmit := by
  unfold Statement
  decide

end Sys2Proof.Laws.RowMatch
end

