-- ==== Sys2Proof/Machine/Script.lean ====
section
/-! DEFINITION. Command scripts: the text syntax of the commands and of the schedule directives, and what a script does
(30_encoding.md R108, R109). The step of the machine does not use this file. -/

namespace Sys2Proof.Machine

/-- One line of a script (R108, R109). -/
inductive ScriptLine where
  /-- An empty line or a comment "; text". -/
  | comment
  /-- A command, issued by MAIN or, with the prefix irq:, by IRQ. -/
  | command (ctx : Ctx) (i : Instr)
  /-- @emit k -/
  | emitSlots (k : Nat)
  /-- @pause j -/
  | pause (j : Nat)
  /-- @resume -/
  | resume
  deriving DecidableEq, Repr

/-! ### Reading a line -/

/-- The words of a line; a comma is a word of its own. -/
def splitWords : List Char → List Char → List (List Char)
  | [], [] => []
  | word, [] => [word.reverse]
  | word, c :: rest =>
    if c = ' ' then (if word = [] then splitWords [] rest else word.reverse :: splitWords [] rest)
    else if c = ',' then (if word = [] then [','] :: splitWords [] rest else word.reverse :: [','] :: splitWords [] rest)
    else splitWords (c :: word) rest

/-- The value of a digit in a base of at most 16. -/
def digitValue (base : Nat) (c : Char) : Option Nat :=
  let n := c.toNat
  let v := if 48 ≤ n ∧ n ≤ 57 then n - 48 else if 97 ≤ n ∧ n ≤ 102 then n - 87 else if 65 ≤ n ∧ n ≤ 70 then n - 55 else 16
  if v < base then some v else none

/-- The natural number some digits spell, after the value of the digits before them. -/
def digitsValue (base acc : Nat) : List Char → Option Nat
  | [] => some acc
  | c :: rest =>
    match digitValue base c with
    | some v => digitsValue base (acc * base + v) rest
    | none => none

/-- A decimal or 0x hexadecimal natural (R108). -/
def numberOf (word : List Char) : Option Nat :=
  match word with
  | '0' :: 'x' :: d :: ds => digitsValue 16 0 (d :: ds)
  | d :: ds => digitsValue 10 0 (d :: ds)
  | [] => none

/-- An operand that fits its field (R103). -/
def operandOf (n : Nat) (word : List Char) : Option (BitVec n) :=
  match numberOf word with
  | some v => if v < 2 ^ n then some (BitVec.ofNat n v) else none
  | none => none

/-- The command some words spell (R108). -/
def commandOf (words : List (List Char)) : Option Instr :=
  match words with
  | [['I', 'N', 'I', 'T']] => some .init
  | [['S', 'H', 'O', 'W']] => some .showFrame
  | [['C', 'L', 'E', 'A', 'R']] => some .clear
  | [['G', 'E', 'T', '_', 'P', 'I', 'X', 'E', 'L'], i] => (operandOf 16 i).map .getPixel
  | [['S', 'E', 'T', '_', 'P', 'I', 'X', 'E', 'L'], i, [','], r, [','], g, [','], b] =>
    match operandOf 16 i, operandOf 8 r, operandOf 8 g, operandOf 8 b with
    | some i, some r, some g, some b => some (.setPixel i r g b)
    | _, _, _, _ => none
  | _ => none

/-- The line some words spell (R108, R109); none where they spell no line. -/
def lineOfWords (words : List (List Char)) : Option ScriptLine :=
  match words with
  | [] => some .comment
  | (';' :: _) :: _ => some .comment
  | ['i', 'r', 'q', ':'] :: rest => (commandOf rest).map (.command .irq)
  | [['@', 'e', 'm', 'i', 't'], k] => (numberOf k).map .emitSlots
  | [['@', 'p', 'a', 'u', 's', 'e'], j] => (numberOf j).map .pause
  | [['@', 'r', 'e', 's', 'u', 'm', 'e']] => some .resume
  | words => (commandOf words).map (.command .main)

/-- The line a text spells. -/
def scriptLine (text : List Char) : Option ScriptLine := lineOfWords (splitWords [] text)

/-! ### What a script does -/

/-- Go on after a step that has a next state. -/
def andThen (o : Out) (k : State → Out) : Out :=
  match o with
  | .next s => k s
  | .fault f => .fault f
  | .refused r => .refused r

/-- MAIN's next micro-step, the first of the pending ones: one of the orders the rules admit (20_memory.md R85). -/
def firstMicro (s : State) : Out :=
  match mainMicros s with
  | [] => .fault .notEnabled
  | i :: _ => exec i s

/-- k micro-steps of MAIN, fewer where a fault is recorded: no step is enabled after it (60_exceptions.md R263). -/
def runMicros : Nat → State → Out
  | 0, s => .next s
  | k + 1, s => if s.fault = true then .next s else andThen (firstMicro s) (runMicros k)

/-- MAIN's remaining micro-steps to completion, or to a fault, at most a given number of them. -/
def finishMain : Nat → State → Out
  | 0, s => .next s
  | k + 1, s => if s.main = .idle ∨ s.fault = true then .next s else andThen (firstMicro s) (finishMain k)

/-- The most micro-steps a main command takes: 3·N + BUFFER_SIZE + 2, those of CLEAR and INIT (42_transfer_controller.md
R216, R220). -/
def longestCommand (c : Config) : Nat := 3 * c.ledCount + bufferSize c + 2

/-- k steps of the engine (R109). -/
def emitMany : Nat → State → Out
  | 0, s => .next s
  | k + 1, s => andThen (exec .xferEmit s) (emitMany k)

/-- A held command: its accepting step and its first j micro-steps. It must then still be in progress, since j "is less than
the command's number of micro-steps" (R109).
DESIGN CHOICE (log entry 13): where the command raises a fault, at its acceptance or in one of these micro-steps, R109 is
silent. The state with the fault record is kept, whatever j is, as after the same command without @pause; nothing is held, and
a later line that needs a step stops with `halted`. -/
def holdMain (j : Nat) (i : Instr) (s : State) : Out :=
  andThen (andThen (whenLive s (issueWord .main (encode i) s)) (runMicros j)) fun t =>
    if t.main = .idle ∧ t.fault = false then .fault .notEnabled else .next t

/-- The remaining micro-steps of the held command; without one there is nothing to resume (R109).
DESIGN CHOICE (log entry 13): an @resume after a fault, as of an irq: line, stops the script with `halted`, like every other
line that needs a step then: R109 is silent, and no step is enabled (60_exceptions.md R263). -/
def resumeMain (s : State) : Out :=
  whenLive s (if s.main = .idle then .fault .notEnabled else finishMain (longestCommand s.cfg) s)

/-- A script without its comments, line by line (R109). After an @pause the next line must be a MAIN command; while that
command is held a MAIN command stops with `mainBusy`, so that only irq: lines and @emit are taken.
DESIGN CHOICE (log entry 13): R109 says which directives are admitted and not what an inadmissible one does. Here an @pause
whose next line is no MAIN command, an @pause whose j is not less than the number of micro-steps of a command that raises no
fault, and an @resume with no command held each stop the script with `notEnabled`; a command still held at the end of the
script stays held. After a fault every line that needs a step stops the script with `halted` (60_exceptions.md R263); a script
whose last line raises the fault ends in the state with the record. -/
def runLines : List ScriptLine → State → Out
  | [], s => .next s
  | .comment :: rest, s => runLines rest s
  | .pause j :: .command .main i :: rest, s => andThen (holdMain j i s) (runLines rest)
  | .pause _ :: _, _ => .fault .notEnabled
  | .command .main i :: rest, s =>
    andThen (andThen (whenLive s (issueWord .main (encode i) s)) (finishMain (longestCommand s.cfg))) (runLines rest)
  | .command .irq i :: rest, s => andThen (whenLive s (issueWord .irq (encode i) s)) (runLines rest)
  | .emitSlots k :: rest, s => andThen (emitMany k s) (runLines rest)
  | .resume :: rest, s => andThen (resumeMain s) (runLines rest)

/-- A script: its comments are no lines of R109's "next line" (DESIGN CHOICE, log entry 13). -/
def runScript (lines : List ScriptLine) (s : State) : Out := runLines (lines.filter (fun l => l ≠ .comment)) s

end Sys2Proof.Machine
end

