-- ==== Sys2Proof/Tests/Slice0.lean ====
section
/-! SUPPORT. Tests, each with its source in spec/: ill-formed terms refused, words of the spec decoded, one step of each
instruction, and for every statement with hypotheses a state and operands that meet them. Expected results are those of
95_test_vectors.md, or read off the rule named. -/

namespace Sys2Proof.Tests

open Sys2Proof Sys2Proof.Machine

/-! ### Ill-formed terms (30_encoding.md R107: CH = 3 is never produced) -/

theorem test_wellFormed_refuses_pxWrite_channel3 : (Instr.pxWrite 0 3 0).wellFormed = false := by decide

theorem test_wellFormed_refuses_pxRead_channel3 : (Instr.pxRead 1 3).wellFormed = false := by decide

theorem test_wellFormed_accepts_index_out_of_range : (Instr.setPixel 65535 1 2 3).wellFormed = true := by decide

/-- A PX_WRITE word and a PX_READ word with CH = 3 are refused by name. -/
theorem test_decode_refuses_channel3 :
    decode 0x8000000103000000 = .error .channelNeverProduced ∧
    decode 0x8100000103000000 = .error .channelNeverProduced := by decide

/-! ### Decoding (95_test_vectors.md 2.1): one theorem per constructor, the words as the spec writes them -/

/-- E-1, E-13. -/
theorem test_decode_init :
    decodePort 0x0100000000000000 = some .init ∧ decodePort 0x0100000000000001 = none := by decide

/-- E-2, E-3, E-14, E-15. -/
theorem test_decode_setPixel :
    decodePort 0x0200000100FF8001 = some (.setPixel 1 0xFF 0x80 0x01) ∧
    decodePort 0x0200FFFF00FFFFFF = some (.setPixel 65535 0xFF 0xFF 0xFF) ∧
    decodePort 0x0200000001000000 = none ∧ decodePort 0x0280000000000000 = none := by decide

/-- E-4, E-16, E-17. -/
theorem test_decode_getPixel :
    decodePort 0x0300000100000000 = some (.getPixel 1) ∧ decodePort 0x0300000000000001 = none ∧
    decodePort 0x0300000000010000 = none := by decide

/-- E-5, E-11, E-12. -/
theorem test_decode_showFrame :
    decodePort 0x0400000000000000 = some .showFrame ∧ decodePort 0x0401000000000000 = none ∧
    decodePort 0x0400000100000000 = none := by decide

/-- E-6, E-18. -/
theorem test_decode_clear :
    decodePort 0x0500000000000000 = some .clear ∧ decodePort 0x0500000000000100 = none := by decide

/-- E-7 to E-10: unassigned codes, and a MICRO code at the port. -/
theorem test_decode_illegal :
    decodePort 0x0000000000000000 = none ∧ decodePort 0x0600000000000000 = none ∧
    decodePort 0xFF00000000000000 = none ∧ decodePort 0x8500000000000000 = none := by decide

/-- U-1. -/
theorem test_decode_pxWrite : decodeMicro 0x800000010200007F = .ok (.pxWrite 1 2 0x7F) := by decide

/-- U-2. -/
theorem test_decode_pxRead : decodeMicro 0x8100000001000000 = .ok (.pxRead 0 1) := by decide

/-- U-3, U-4. -/
theorem test_decode_encWrite :
    decodeMicro 0x820000000F000000 = .ok (.encWrite .b0 15) ∧
    decodeMicro 0x8201000032000000 = .ok (.encWrite .b1 50) := by decide

/-- U-5. -/
theorem test_decode_xferStop : decodeMicro 0x8300000000000000 = .ok .xferStop := by decide

/-- U-6, U-7. -/
theorem test_decode_xferStart :
    decodeMicro 0x8400000000000000 = .ok (.xferStart .b0) ∧
    decodeMicro 0x8401000000000000 = .ok (.xferStart .b1) := by decide

/-- U-8. -/
theorem test_decode_xferEmit : decodeMicro 0x8500000000000000 = .ok .xferEmit := by decide

/-- Lines of program P3 with their words. -/
theorem test_script_lines :
    scriptLine "irq: SET_PIXEL 0, 0x00, 0xFF, 0x00".toList = some (.command .irq (.setPixel 0 0 255 0)) ∧
    encode (.setPixel 0 0 255 0) = 0x020000000000FF00 ∧
    scriptLine "SHOW".toList = some (.command .main .showFrame) ∧ scriptLine "@pause 4".toList = some (.pause 4) := by
  decide

/-- R109: an @resume needs a held command. -/
theorem test_script_resume_needs_a_held_command : runScript [.resume] State.reset = .fault .notEnabled := rfl

/-- R109 with R271: a paused SHOW before INIT records its fault, and an @resume then finds no enabled step (R263). -/
theorem test_script_fault_under_pause :
    runScript [.pause 4, .command .main .showFrame] State.reset =
      .next { State.reset with fault := true, fcode := 0x04, fword := 0x0400000000000000 } ∧
    runScript [.pause 4, .command .main .showFrame, .resume] State.reset = .fault .halted := ⟨rfl, rfl⟩

/-! ### Small states -/

/-- After reset, INITED set: what the pixel vectors call 'after INIT', but for the transfer. -/
def inited : State := { State.reset with inited := true }

/-- The test instance with some changes after INIT, the engine at a slot. -/
def runningAt (xcur : BitVec 24) (xcnt : BitVec 25) : State := { inited with xstate := .running, xcur := xcur, xcnt := xcnt }

/-- MAIN in a phase of a SHOW. -/
def inShow (ph : Phase) (s : State) : State := { s with main := .busy 0x0400000000000000 ph }

/-- The test instance with two buffers. -/
def twoBuffers : State := { inited with cfg := { Config.testInstance with doubleBuffer := true } }

/-- One LED and one reset slot (vector N-12): 25 slots. -/
def oneLed : Config := { Config.testInstance with ledCount := 1, resetSlots := 1 }

/-- One LED, INIT done, the engine RUNNING on a buffer of zeros' codes (program P4's first frame, in buffer 0). -/
def oneLedRunning : State :=
  { State.resetWith oneLed with
    inited := true, xstate := .running, tb0 := (List.range 24).map (fun w => (w, 30#32)) }

/-- What a step answers, where it answers a next state. -/
def after (o : Out) : Option State :=
  match o with
  | .next t => some t
  | .fault _ => none
  | .refused _ => none

/-! ### One step of each instruction (95_test_vectors.md sections 2.2 to 2.5) -/

/-- X-13, the accepting step: INITED, and six bytes to zero. -/
theorem test_init_accepted :
    (after (exec .init State.reset)).map (fun t => (t.inited, t.main)) =
      some (true, .busy 0x0100000000000000
        (.clr .forInit [(0, .g), (0, .r), (0, .b), (1, .g), (1, .r), (1, .b)])) := by decide

/-- F-7. -/
theorem test_init_repeated :
    (after (exec .init inited)).map (fun t => (t.fault, t.fcode, t.fword, t.fctx)) =
      some (true, 0x03, 0x0100000000000000, .main) := by decide

/-- P-5. -/
theorem test_setPixel_out_of_range : after (exec (.setPixel 2 255 255 255) inited) = some inited := by decide

/-- F-3: the initialisation check precedes the range check. -/
theorem test_setPixel_not_initialized :
    (after (exec (.setPixel 5 1 2 3) State.reset)).map (fun t => (t.fault, t.fcode, t.fword, t.fctx)) =
      some (true, 0x04, 0x0200000500010203, .main) := by decide

/-- P-7. -/
theorem test_getPixel_out_of_range :
    (after (exec (.getPixel 2) inited)).map (fun t => (t.out, t.main)) = some ([(.main, 0x00000000)], .idle) := by decide

/-- P-4: PX[0] = (G 0x00, R 0x01, B 0x00), read by IRQ in one step. -/
theorem test_getPixel_irq :
    (after (exec (.getPixel 0) { inited with portCtx := .irq, px := [(1, 1)] })).map (fun t => t.out) =
      some [(.irq, 0x01010000)] := by decide

/-- F-1. -/
theorem test_show_not_initialized :
    (after (exec .showFrame State.reset)).map (fun t => (t.fault, t.fcode, t.fword, t.fctx)) =
      some (true, 0x04, 0x0400000000000000, .main) := by decide

/-- X-14: with two buffers and ACT = 0 the target is buffer 1. -/
theorem test_show_targets_the_other_buffer :
    (after (exec .showFrame twoBuffers)).map (fun t => t.main) =
      some (.busy 0x0400000000000000 (.enc .forShow .b1 0)) := by decide

/-- F-4. -/
theorem test_clear_not_initialized :
    (after (exec .clear State.reset)).map (fun t => (t.fault, t.fcode, t.fword, t.fctx)) =
      some (true, 0x04, 0x0500000000000000, .main) := by decide

/-- R272: CLEAR from IRQ raises IRQ_CONTEXT. -/
theorem test_clear_from_irq :
    (after (exec .clear { inited with portCtx := .irq })).map (fun t => (t.fcode, t.fctx)) = some (0x02, .irq) := by decide

/-- P-13: PX[1].B is element 5 of the store. -/
theorem test_pxWrite_bare :
    (after (exec (.pxWrite 1 2 0x7F) inited)).map (fun t => (pxRead t 1 .b, t.px)) = some (0x7F, [(5, 0x7F)]) := by decide

/-- R217: the step that zeroes the last byte begins the encode. -/
theorem test_pxWrite_ends_the_zeroing :
    (after (exec (.pxWrite 1 2 0) { inited with
        px := [(5, 9)], main := .busy 0x0500000000000000 (.clr .forClear [(1, .b)]) })).map (fun t => (t.px, t.main)) =
      some ([], .busy 0x0500000000000000 (.enc .forClear .b0 0)) := by decide

/-- P-12, after the interrupt's write: G was read as 1, R and B are read as 9 and 7. -/
theorem test_pxRead_torn :
    (after (exec (.pxRead 0 2) { inited with
        px := [(0, 8), (1, 9), (2, 7)],
        main := .busy 0x0300000000000000 (.getp 0 ⟨some 1, some 9, none⟩ [.b]) })).map (fun t => (t.out, t.main)) =
      some ([(.main, 0x01090107)], .idle) := by decide

/-- S1: bit 0 of R of pixel 0 is slot 15 and PWM_ONE. -/
theorem test_encWrite_slot15 :
    (after (exec (.encWrite .b0 15) (inShow (.enc .forShow .b0 15) { inited with px := [(1, 1)] }))).map
      (fun t => (t.tb0, t.main)) =
      some ([(15, 0x003C)], .busy 0x0400000000000000 (.enc .forShow .b0 16)) := by decide

/-- N-8: the last slot is a reset slot, rewritten with 0; the stop phase is next. -/
theorem test_encWrite_last_slot :
    (after (exec (.encWrite .b0 50) (inShow (.enc .forShow .b0 50) { inited with tb0 := [(50, 7)] }))).map
      (fun t => (t.tb0, t.main)) =
      some ([], .busy 0x0400000000000000 (.stop .forShow .b0)) := by decide

/-- X-9. -/
theorem test_xferStop_early :
    (after (exec .xferStop (inShow (.stop .forShow .b0) (runningAt 10 10)))).map
      (fun t => (t.xstate, t.trace, t.trunc, t.split)) = some (.stopped, [.halt], true, true) := by decide

/-- X-6. -/
theorem test_xferStop_after_whole_passes :
    (after (exec .xferStop (inShow (.stop .forShow .b0) (runningAt 0 51)))).map
      (fun t => (t.xstate, t.trace, t.trunc, t.split)) = some (.stopped, [.halt], false, false) := by decide

/-- X-11, from XCUR and XCNT other than 0. -/
theorem test_xferStart_starts :
    (after (exec (.xferStart .b0) (inShow (.start .forShow .b0) { runningAt 5 6 with xstate := .stopped }))).map
      (fun t => (t.xstate, t.xbuf, t.xcur, t.xcnt, t.act, t.main)) =
      some (.running, .b0, 0, 0, .b0, .idle) := by decide

/-- X-12. -/
theorem test_xferStart_while_running :
    (after (exec (.xferStart .b0) (inShow (.start .forShow .b0) (runningAt 5 6)))).map
      (fun t => (t.fault, t.fcode, t.fword, t.fctx, t.xstate, t.xcur)) =
      some (true, 0x05, 0x0400000000000000, .main, .running, 5) := by decide

/-- X-3: XCNT is saturated. -/
theorem test_xferEmit_saturates :
    (after (exec .xferEmit { runningAt 3 51 with tb0 := [(3, 30)] })).map (fun t => (t.xcur, t.xcnt, t.trace)) =
      some (4, 51, [.slot 30]) := by decide

/-- X-4. -/
theorem test_xferEmit_one_shot :
    (after (exec .xferEmit { runningAt 50 50 with
        cfg := { Config.testInstance with xferMode := .oneShot } })).map (fun t => (t.xcur, t.xcnt, t.trace, t.xstate)) =
      some (0, 51, [.slot 0, .halt], .stopped) := by decide

/-! ### Steps of the machine -/

/-- F-12: a word that no row matches, issued by MAIN. -/
theorem test_step_illegal_word :
    (after (step { inited with agenda := [.issue .main 0x0000000000000000] })).map
      (fun t => (t.fault, t.fcode, t.fword, t.fctx, t.agenda)) = some (true, 0x01, 0, .main, []) := by decide

/-- F-11: the illegal check comes before IRQ_CONTEXT. -/
theorem test_step_illegal_word_first :
    (after (step { State.reset with agenda := [.issue .irq 0x0400000100000000] })).map
      (fun t => (t.fcode, t.fword, t.fctx)) = some (0x01, 0x0400000100000000, .irq) := by decide

/-- F-15: after a fault no XFER_EMIT is taken. -/
theorem test_step_halted : step { runningAt 5 5 with fault := true } = .fault .halted := rfl

/-- A placed word is the next instruction: INIT at reset, and a PX_WRITE of a SET_PIXEL in progress. -/
theorem test_placed_word_runs :
    (after (step (State.reset.withFetchWord 64 0x0100000000000000))).map (fun t => t.inited) = some true ∧
    (after (step (State.reset.withFetchWord 64 0x800000010200007F))).map (fun t => t.px) = some [(5, 0x7F)] := by decide

/-- S5: the buffer of S1 decodes to its six bytes. -/
theorem test_decode_buffer :
    decBuffer { State.reset with
      tb0 := (List.range 15).map (fun w => (w, 30#32)) ++ [(15, 60#32)] ++
        (List.range 32).map (fun w => (16 + w, 30#32)) } .b0 = some [0x00, 0x01, 0x00, 0x00, 0x00, 0x00] := by decide

/-! ### Witnesses: the hypotheses of each statement are met together -/

theorem witness_DecodeInvertsEncode : (Instr.pxWrite 65535 2 255).wellFormed = true ∧ Instr.xferEmit.wellFormed = true := by
  decide

theorem witness_AtMostOneRowMatches : Row.setPixel.hits 0x0200000100FF8001 = true := by decide

/-- A word for each of the six clauses. -/
theorem witness_PortDecodesByTheTable :
    (0x0100000000000000 : Word) &&& 0xFFFFFFFFFFFFFFFF = 0x0100000000000000 ∧
    (0x0200FFFF00FFFFFF : Word) &&& 0xFFFF0000FF000000 = 0x0200000000000000 ∧
    (0x0300FFFF00000000 : Word) &&& 0xFFFF0000FFFFFFFF = 0x0300000000000000 ∧
    (0x0400000000000000 : Word) &&& 0xFFFFFFFFFFFFFFFF = 0x0400000000000000 ∧
    (0x0500000000000000 : Word) &&& 0xFFFFFFFFFFFFFFFF = 0x0500000000000000 ∧
    (∀ r ∈ [Row.init, .setPixel, .getPixel, .showFrame, .clear], r.hits 0x0200000001000000 = false) ∧
    Row.clear ∈ cmdRows ∧ Row.clear.hits 0x0500000000000000 = true := by decide

theorem witness_StepRunsTheIssuedCommand :
    Live { inited with agenda := [.issue .irq 0x0300000100000000] } ∧
    decodePort 0x0300000100000000 = some (.getPixel 1) := by decide

theorem witness_StepRunsTheNamedMicroStep :
    Live { runningAt 0 0 with agenda := [.micro 0x8500000000000000] } ∧ decodeMicro 0x8500000000000000 = .ok .xferEmit ∧
    decodeMicro 0x8300000000000000 = .ok .xferStop ∧ (inShow (.stop .forShow .b0) inited).main ≠ .idle := by decide

/-- A command, placed where MAIN was busy, and a micro-step. -/
theorem witness_StepRunsThePlacedInstruction :
    Live (inShow (.stop .forShow .b0) inited) ∧ Instr.showFrame.wellFormed = true ∧ Instr.showFrame.isCommand = true ∧
    Live State.reset ∧ (Instr.pxRead 1 2).wellFormed = true := by decide

theorem witness_FreeRunTakesAnEnabledMicroStep :
    Live (inShow (.stop .forShow .b0) (runningAt 0 0)) ∧ (inShow (.stop .forShow .b0) (runningAt 0 0)).agenda = [] ∧
    enabledMicros (inShow (.stop .forShow .b0) (runningAt 0 0)) = [.xferStop, .xferEmit] := by decide

theorem witness_IdleBlockWaitsForTheHost :
    Live State.reset ∧ State.reset.agenda = [] ∧ State.reset.main = .idle ∧ State.reset.xstate = .stopped := by decide

theorem witness_FaultedStateHasNoStep :
    legal { runningAt 5 5 with fault := true }.cfg = true ∧ { runningAt 5 5 with fault := true }.fault = true := by decide

/-- A configuration for each of the thirteen cases, at the boundary where there is one. -/
theorem witness_IllFormedConfigurationIsRefused :
    [{ Config.testInstance with pwmZero := 60 }, { Config.testInstance with pwmZero := 0 },
      { Config.testInstance with pwmOne := 0 }, { Config.testInstance with slotWidth := .w8, pwmZero := 256 },
      { Config.testInstance with slotWidth := .w8, pwmOne := 256, periodTicks := 256 },
      { Config.testInstance with periodTicks := 29 }, { Config.testInstance with periodTicks := 59 },
      { Config.testInstance with pwmOne := 29 }, { Config.testInstance with ledCount := 0 },
      { Config.testInstance with ledCount := 65536 }, { Config.testInstance with resetSlots := 0 },
      { Config.testInstance with resetSlots := 2 ^ 24 - 47 }, { Config.testInstance with periodTicks := 0 }].map legal =
      List.replicate 13 false ∧
    [{ Config.testInstance with slotWidth := .w8, pwmOne := 255, periodTicks := 255 },
      { Config.testInstance with periodTicks := 60 }, { Config.testInstance with ledCount := 65535 },
      { Config.testInstance with resetSlots := 2 ^ 24 - 48 }].map legal = List.replicate 4 true := by decide

theorem witness_IllegalWordIsRecorded :
    Live { inited with agenda := [.issue .main 0x8500000000000000] } ∧ decodePort 0x8500000000000000 = none ∧
    inited.main = .idle ∧ Live (inShow (.stop .forShow .b0) { inited with agenda := [.issue .irq 0] }) ∧
    decodePort 0 = none := by decide

theorem witness_MainAcceptanceFaults :
    (AtMain inited ∧ inited.inited = true) ∧ (AtMain State.reset ∧ State.reset.inited = false) := by decide

theorem witness_IrqAcceptanceFaults :
    AtIrq { inited with portCtx := .irq } ∧
    (AtIrq { State.reset with portCtx := .irq } ∧ { State.reset with portCtx := .irq }.inited = false) := by decide

theorem witness_BusyMainHasNoMove :
    Live (inShow (.stop .forShow .b0) inited) ∧ (inShow (.stop .forShow .b0) inited).portCtx = .main ∧
    (inShow (.stop .forShow .b0) inited).main ≠ .idle ∧ Instr.showFrame.isCommand = true := by decide

theorem witness_FaultingInstructionWritesOnlyTheRecord :
    (after (exec .showFrame State.reset)).map (fun t => t.fault) = some true := by decide

/-- A command's fault, and START_WHILE_RUNNING. -/
theorem witness_FaultRecordNamesTheCommand :
    (after (exec .showFrame { inited with portCtx := .irq })).map (fun t => t.fault) = some true ∧
    (after (exec (.xferStart .b0) (inShow (.start .forShow .b0) (runningAt 0 0)))).map (fun t => t.fault) = some true := by
  decide

theorem witness_InitShowClearAreAccepted :
    (AtMain State.reset ∧ State.reset.inited = false) ∧ (AtMain inited ∧ inited.inited = true) := by decide

/-- The last pixel of the store. -/
theorem witness_PixelCommandsAreAccepted :
    AtMain inited ∧ (1 : BitVec 16).toNat < inited.cfg.ledCount ∧ inited.inited = true := by decide

/-- The first index out of range and the last, from both contexts. -/
theorem witness_OutOfRangeSetPixelDoesNothing :
    Live inited ∧ inited.inited = true ∧ inited.cfg.ledCount ≤ (2 : BitVec 16).toNat ∧
    inited.cfg.ledCount ≤ (65535 : BitVec 16).toNat ∧ inited.main = .idle ∧
    { inited with portCtx := Ctx.irq }.portCtx = .irq := by decide

theorem witness_OutOfRangeGetPixelRespondsInvalid :
    Live State.reset ∧ State.reset.cfg.ledCount ≤ (2 : BitVec 16).toNat ∧ State.reset.main = .idle ∧
    { State.reset with portCtx := Ctx.irq }.portCtx = .irq := by decide

theorem witness_InterruptSetPixelWritesOnePixel :
    AtIrq { inited with portCtx := .irq } ∧ inited.inited = true ∧ (1 : BitVec 16).toNat < inited.cfg.ledCount ∧
    cellsWf inited.px = true := by decide

theorem witness_InterruptGetPixelResponds :
    AtIrq { State.reset with portCtx := .irq } ∧ (1 : BitVec 16).toNat < State.reset.cfg.ledCount := by decide

/-- With another channel pending, and with none. -/
theorem witness_PixelWriteOfSetPixel :
    (Live { inited with main := .busy 0 (.setp 1 1 2 3 [.g, .b]) } ∧ cellsWf inited.px = true ∧
      (1 : BitVec 16).toNat < inited.cfg.ledCount ∧ Chan.g ∈ [Chan.g, .b] ∧ ∃ d ∈ [Chan.g, .b], d ≠ .g) ∧
    (Live { inited with main := .busy 0 (.setp 1 1 2 3 [.b]) } ∧ Chan.b ∈ [Chan.b] ∧ ∀ d ∈ [Chan.b], d = .b) := by decide

/-- With another byte pending, and with none. -/
theorem witness_PixelWriteOfZeroing :
    (Live { inited with main := .busy 0 (.clr .forClear [(0, .g), (1, .b)]) } ∧ cellsWf inited.px = true ∧
      (1 : BitVec 16).toNat < inited.cfg.ledCount ∧ ((1 : BitVec 16).toNat, Chan.b) ∈ [(0, Chan.g), (1, .b)] ∧
      ∃ e ∈ [(0, Chan.g), (1, Chan.b)], e ≠ ((1 : BitVec 16).toNat, Chan.b)) ∧
    (Live { inited with main := .busy 0 (.clr .forClear [(1, .b)]) } ∧
      ∀ e ∈ [(1, Chan.b)], e = ((1 : BitVec 16).toNat, Chan.b)) := by decide

theorem witness_BarePixelWrite :
    Live inited ∧ cellsWf inited.px = true ∧ inited.main = .idle ∧ (1 : BitVec 16).toNat < inited.cfg.ledCount := by decide

/-- With another channel pending, and with none and every byte there. -/
theorem witness_PixelReadRecordsAndResponds :
    (Live { inited with main := .busy 0 (.getp 1 gotNothing [.g, .b]) } ∧ (1 : BitVec 16).toNat < inited.cfg.ledCount ∧
      Chan.g ∈ [Chan.g, .b] ∧ ∃ d ∈ [Chan.g, .b], d ≠ .g) ∧
    (Live { inited with main := .busy 0 (.getp 1 ⟨some 1, some 9, none⟩ [.b]) } ∧ (∀ d ∈ [Chan.b], d = .b) ∧
      gotSet ⟨some 1, some 9, none⟩ .b (pxRead inited 1 .b) = ⟨some 1, some 9, some 0⟩) := by decide

/-- The last data slot, the first reset slot and the last slot; the second buffer where there is one. -/
theorem witness_EncodeWriteWritesItsSlot :
    Live (inShow (.enc .forShow .b0 47) inited) ∧ cellsWf inited.tb0 = true ∧ cellsWf inited.tb1 = true ∧
    (47 : BitVec 24).toNat < bufferSize inited.cfg ∧ (47 : BitVec 24).toNat < 24 * inited.cfg.ledCount ∧
    (48 : BitVec 24).toNat + 1 ≠ bufferSize inited.cfg ∧ ¬ (48 : BitVec 24).toNat < 24 * inited.cfg.ledCount ∧
    (50 : BitVec 24).toNat + 1 = bufferSize inited.cfg ∧ twoBuffers.cfg.doubleBuffer = true := by decide

theorem witness_EncodePhaseComputesEnc :
    Live (inShow (.enc .forShow .b0 0) inited) ∧ cellsWf inited.tb0 = true ∧ cellsWf inited.tb1 = true ∧
    Live (inShow (.enc .forShow .b1 0) twoBuffers) ∧ twoBuffers.cfg.doubleBuffer = true := by decide

/-- The last step of an encode of one LED at (0, 0, 0), which leaves the Pixel Store as it is. -/
theorem witness_EncodeInProgressAgreesWithStore :
    cellsWf oneLedRunning.tb0 = true ∧ cellsWf oneLedRunning.tb1 = true ∧
    (∀ v < 24, tbRead oneLedRunning .b0 v = encSlot oneLedRunning v) ∧
    (after (step (inShow (.enc .forShow .b0 24) { oneLedRunning with agenda := [.micro 0x8200000018000000] }))).map
      (fun t => t.px) = some oneLedRunning.px := by decide

/-- A buffer that an encode has left, and one with another code in a data slot. -/
theorem witness_DecodeRecoversThePixels :
    legal oneLedRunning.cfg = true ∧ (∀ w < bufferSize oneLed, tbRead oneLedRunning .b0 w = encSlot oneLedRunning w) ∧
    ∃ w < 24 * oneLed.ledCount, tbRead oneLedRunning .b1 w ≠ zeroCode oneLed ∧
      tbRead oneLedRunning .b1 w ≠ oneCode oneLed := by decide

/-- A block whose stops and starts may fail. -/
def mayFail (s : State) : State := { s with cfg := { Config.testInstance with xferMayFail := true } }

/-- A RUNNING engine and a STOPPED one, the STOPPED one also where stops may fail. -/
theorem witness_StopEndsTheTransfer :
    (Live (inShow (.stop .forShow .b0) (runningAt 50 50)) ∧ (runningAt 50 50).cfg.xferMayFail = false ∧
      (runningAt 50 50).xstate = .running) ∧
    (Live (inShow (.stop .forShow .b0) inited) ∧ inited.xstate = .stopped) ∧
    (Live (inShow (.stop .forShow .b0) (mayFail inited)) ∧ (mayFail inited).xstate = .stopped) := by decide

theorem witness_StartBeginsTheTransfer :
    Live (inShow (.start .forShow .b0) inited) ∧ inited.cfg.xferMayFail = false ∧ inited.xstate = .stopped ∧
    Live (inShow (.start .forShow .b1) twoBuffers) ∧ twoBuffers.cfg.doubleBuffer = true := by decide

theorem witness_StartWhileRunningIsRecorded :
    Live (inShow (.start .forShow .b0) (runningAt 0 0)) ∧ (runningAt 0 0).xstate = .running := by decide

/-- The premises on the state are met in both cases; whichever way the free draw falls, one of the two clauses speaks. -/
theorem witness_StopAndStartMayFail :
    (Live (inShow (.stop .forShow .b0) (mayFail (runningAt 0 0))) ∧ (mayFail (runningAt 0 0)).cfg.xferMayFail = true ∧
      (mayFail (runningAt 0 0)).xstate = .running) ∧
    (Live (inShow (.start .forShow .b0) (mayFail inited)) ∧ (mayFail inited).xstate = .stopped) ∧
    (Config.failDraw inited.draws = true ∨ Config.failDraw inited.draws = false) :=
  ⟨by decide, by decide, by cases Config.failDraw inited.draws <;> simp⟩

/-- STOPPED; RUNNING at the last slot but one; RUNNING at the last slot, in both transfer modes. -/
theorem witness_EmitSendsTheNextSlot :
    (Live inited ∧ inited.xstate = .stopped) ∧
    (Live (runningAt 49 49) ∧ (runningAt 49 49).xstate = .running ∧ (runningAt 49 49).xcur.toNat + 1 < bufferSize inited.cfg) ∧
    ((runningAt 50 50).xcur.toNat < bufferSize inited.cfg ∧ (runningAt 50 50).xcur.toNat + 1 = bufferSize inited.cfg ∧
      (runningAt 50 50).xbuf = .b0 ∧ (runningAt 50 50).cfg.xferMode = .circular) ∧
    Live { runningAt 50 50 with cfg := { Config.testInstance with xferMode := .oneShot } } := by decide

theorem witness_PassSendsTheBuffer :
    Live oneLedRunning ∧ oneLedRunning.xstate = .running ∧ oneLedRunning.xcur = 0 ∧ oneLedRunning.xbuf = .b0 := by decide

theorem witness_ShowRestartsTheTransfer :
    AtMain (runningAt 7 7) ∧ (runningAt 7 7).inited = true ∧ (runningAt 7 7).cfg.xferMayFail = false ∧
    cellsWf (runningAt 7 7).tb0 = true ∧ cellsWf (runningAt 7 7).tb1 = true ∧ (runningAt 7 7).act = .b0 ∧
    AtMain twoBuffers ∧ twoBuffers.cfg.doubleBuffer = true ∧ twoBuffers.xstate = .stopped := by decide

theorem witness_ZeroingInAnyOrder :
    Live inited ∧ cellsWf inited.px = true ∧ allPixelBytes inited.cfg ≠ [] ∧ (allPixelBytes inited.cfg).Nodup ∧
    (allPixelBytes inited.cfg).reverse.Perm (allPixelBytes inited.cfg) ∧
    ∀ e ∈ allPixelBytes inited.cfg, e.1 < inited.cfg.ledCount := by decide

theorem witness_ReadBackYieldsTheValuesSet :
    AtMain inited ∧ inited.inited = true ∧ cellsWf inited.px = true ∧ (1 : BitVec 16).toNat < inited.cfg.ledCount ∧
    [Chan.b, .g, .r].Perm [.g, .r, .b] ∧ [Chan.r, .b, .g].Perm [.g, .r, .b] := by decide

/-- A next state in which the Pixel Store changed, and one in which a buffer did. -/
theorem witness_OnlyTheirWritersChangeTheStores :
    (after (exec (.pxWrite 1 2 0x7F) inited)).map (fun t => decide (t.px ≠ inited.px)) = some true ∧
    (after (exec (.encWrite .b0 0) (inShow (.enc .forShow .b0 0) inited))).map (fun t => decide (t.tb0 ≠ inited.tb0)) =
      some true := by decide

/-- Next states in which each field changed: XSTATE started; stopped by XFER_STOP (with TRUNC, SPLIT and TRACE) and by the
one-shot end of a pass; XBUF, ACT, XCUR and XCNT; INITED; OUT. -/
theorem witness_OnlyTheirWritersChangeTheRest :
    (after (exec (.xferStart .b1) (inShow (.start .forShow .b1) { twoBuffers with xcur := 5, xcnt := 6 }))).map
      (fun t => (t.xstate, t.xbuf, t.act, t.xcur, t.xcnt)) = some (.running, .b1, .b1, 0, 0) ∧
    (after (exec .xferStop (inShow (.stop .forShow .b0) (runningAt 10 10)))).map
      (fun t => (t.xstate, t.trunc, t.split, t.trace)) = some (.stopped, true, true, [.halt]) ∧
    (after (exec .xferEmit { runningAt 50 50 with cfg := { Config.testInstance with xferMode := .oneShot } })).map
      (fun t => (t.xstate, t.xcur, t.xcnt)) = some (.stopped, 0, 51) ∧
    (after (exec .init State.reset)).map (fun t => t.inited) = some true ∧
    (after (exec (.getPixel 2) inited)).map (fun t => t.out.length) = some 1 := by decide

/-- Each micro-step has a next state somewhere, and PX_WRITE in each of its three places. -/
theorem witness_MicroStepsRunOnlyInTheirPhase :
    (after (exec (.pxWrite 1 2 0x7F) inited)).isSome = true ∧
    (after (exec (.pxWrite 1 2 3) { inited with main := .busy 0 (.setp 1 1 2 3 [.b]) })).isSome = true ∧
    (after (exec (.pxWrite 1 2 0) { inited with main := .busy 0 (.clr .forClear [(1, .b)]) })).isSome = true ∧
    (after (exec (.pxRead 1 2) { inited with main := .busy 0 (.getp 1 gotNothing [.g, .b]) })).isSome = true ∧
    (after (exec (.encWrite .b0 50) (inShow (.enc .forShow .b0 50) inited))).isSome = true ∧
    (after (exec .xferStop (inShow (.stop .forShow .b0) inited))).isSome = true ∧
    (after (exec (.xferStart .b0) (inShow (.start .forShow .b0) inited))).isSome = true ∧
    (after (exec .xferEmit (runningAt 0 0))).isSome = true := by decide

theorem witness_InterruptCommandLeavesMainAlone :
    (Instr.setPixel 1 1 2 3).isCommand = true ∧
    (after (exec (.setPixel 1 1 2 3) (inShow (.stop .forShow .b0) { inited with portCtx := .irq }))).isSome = true := by
  decide

/-- A step from a state with all three bits set. -/
theorem witness_NothingClearsTheStickyBits :
    (after (step { inited with trunc := true, split := true, agenda := [.issue .main 0x0500000000000000] })).map
      (fun t => (t.inited, t.trunc, t.split)) = some (true, true, true) := by decide

theorem witness_StepKeepsTheConfiguration :
    (after (step { runningAt 0 0 with agenda := [.micro 0x8500000000000000] })).map (fun t => t.trace) =
      some [.slot 0] := by decide

theorem witness_StepKeepsTheStoresCanonical :
    Memory.wf { inited with px := [(1, 7)], agenda := [.issue .irq 0x0200000100112233] } = true ∧
    (after (step { inited with px := [(1, 7)], agenda := [.issue .irq 0x0200000100112233] })).isSome = true := by decide

/-- One LED, two buffers, a SHOW encoding buffer 1 while the engine runs on buffer 0. -/
def encodingBeside : State :=
  { oneLedRunning with
    cfg := { oneLed with doubleBuffer := true }
    main := .busy 0x0400000000000000 (.enc .forShow .b1 0)
    agenda := [.micro 0x8201000000000000] }

theorem encodingBeside_blockInv : BlockInv encodingBeside where
  legalConfig := by decide
  stores := by decide
  counters := by decide
  bufferNumbers := by decide
  record := by decide
  mainRecord := ⟨by decide, by decide, by decide, by decide⟩

theorem encodingBeside_lineInv : LineInv encodingBeside where
  readsCoded := by decide
  encode := fun _ h => absurd h (Nat.not_lt_zero _)
  trace := fun _ h => absurd h List.not_mem_nil

theorem witness_StepKeepsTheBlockInvariant :
    BlockInv encodingBeside ∧ (after (step encodingBeside)).isSome = true := ⟨encodingBeside_blockInv, by decide⟩

theorem witness_StepKeepsTheLineInvariant :
    BlockInv encodingBeside ∧ LineInv encodingBeside ∧ (after (step encodingBeside)).isSome = true :=
  ⟨encodingBeside_blockInv, encodingBeside_lineInv, by decide⟩

theorem witness_EncodedBufferStaysEncoded :
    cellsWf encodingBeside.tb0 = true ∧ cellsWf encodingBeside.tb1 = true ∧ BufferCoded encodingBeside .b0 ∧
    (after (step encodingBeside)).isSome = true := by decide

theorem witness_StartFaultIsUnreachable :
    BlockInv encodingBeside ∧ NoStartFault encodingBeside ∧ (after (step encodingBeside)).isSome = true :=
  ⟨encodingBeside_blockInv, by decide, by decide⟩

theorem witness_DoubleBufferedEncodeSparesTheEngine :
    BlockInv encodingBeside ∧ encodingBeside.cfg.doubleBuffer = true ∧ encodingBeside.xstate = .running ∧
    (after (exec (.encWrite .b1 0) encodingBeside)).isSome = true :=
  ⟨encodingBeside_blockInv, by decide, by decide, by decide⟩

theorem witness_EnabledMicroStepsComplete :
    BlockInv encodingBeside ∧ encodingBeside.fault = false ∧
    enabledMicros encodingBeside = [.encWrite .b1 0, .xferEmit] := ⟨encodingBeside_blockInv, by decide, by decide⟩

/-- A weakly fair run: MAIN has one byte of a SET_PIXEL left and the one-shot engine one slot of its pass; the byte is
written, the slot is sent, and the block waits. -/
def finishing : State :=
  { oneLedRunning with
    cfg := { oneLed with xferMode := .oneShot }
    xcur := 24
    xcnt := 24
    main := .busy 0x0200000000000000 (.setp 0 0 0 0 [.b])
    agenda := [.micro 0x8000000002000000, .micro 0x8500000000000000] }

def finishingRun : Nat → State
  | 0 => finishing
  | 1 => { finishing with main := .idle, agenda := [.micro 0x8500000000000000] }
  | _ + 2 => { finishing with
      main := .idle, agenda := [], xstate := .stopped, xcur := 0, xcnt := 25, trace := [.slot 0, .halt] }

theorem finishing_blockInv : BlockInv finishing where
  legalConfig := by decide
  stores := by decide
  counters := by decide
  bufferNumbers := by decide
  record := by decide
  mainRecord := ⟨by decide, by decide, by decide, by decide, by decide⟩

theorem finishingRun_fair : WeaklyFair finishingRun where
  main n h := absurd rfl (h (n + 2) (Nat.le_add_right n 2))
  engine n h := absurd rfl (h (n + 2) (Nat.le_add_right n 2))

theorem finishingRun_run : RunOf finishingRun
  | 0 => ⟨_, _, rfl, rfl⟩
  | 1 => ⟨_, _, rfl, rfl⟩
  | _ + 2 => ⟨_, _, rfl, rfl⟩

theorem witness_FairRunsMakeProgress :
    RunOf finishingRun ∧ WeaklyFair finishingRun ∧ BlockInv (finishingRun 0) ∧ (finishingRun 0).main ≠ .idle ∧
    (finishingRun 0).xstate = .running :=
  ⟨finishingRun_run, finishingRun_fair, finishing_blockInv, by decide, rfl⟩

/-- The smallest block and the test instance. -/
theorem witness_ResetMeetsTheInvariants : legal oneLed = true ∧ legal Config.testInstance = true := by decide

/-- The first and the last data slot, and the first reset slot. -/
theorem witness_SlotsCarryTheBitsInOrder :
    (0 < Config.testInstance.ledCount ∧ 24 * 1 + 8 * 2 + 7 = 47 ∧ 1 < Config.testInstance.ledCount) ∧
    47 < 24 * Config.testInstance.ledCount ∧ 24 * Config.testInstance.ledCount ≤ 48 ∧
    legal Config.testInstance = true := by decide

/-- No pulse, a pulse, and a whole period. -/
theorem witness_SlotIsHighForItsCode :
    (0 : Slot).toNat ≤ Config.testInstance.periodTicks ∧ (60 : Slot).toNat ≤ Config.testInstance.periodTicks ∧
    (100 : Slot).toNat ≤ Config.testInstance.periodTicks := by decide

end Sys2Proof.Tests
end

section
/-! Scope (00_scope.md): ill-formed configurations, what every step keeps, and the slot-to-bit map. -/

namespace Sys2Proof.Machine

/-! ### A configuration outside R8 and R10 is refused -/

theorem whenLive_illFormed {s : State} (h : legal s.cfg = false) (k : Out) :
    whenLive s k = .refused .illFormedConfig := by
  simp [whenLive, h]

/-- Every instruction's meaning stands behind the check of the configuration and of FAULT. -/
theorem exec_eq_whenLive (i : Instr) (s : State) : ∃ k, exec i s = whenLive s k := by
  cases i <;> exact ⟨_, rfl⟩

theorem exec_illFormed {s : State} (h : legal s.cfg = false) (i : Instr) : exec i s = .refused .illFormedConfig := by
  obtain ⟨k, hk⟩ := exec_eq_whenLive i s
  rw [hk, whenLive_illFormed h]

theorem step_illFormed {s : State} (h : legal s.cfg = false) : step s = .refused .illFormedConfig :=
  whenLive_illFormed h _

/-- The codes of a legal configuration (00_scope.md R10). -/
theorem legal_codes {c : Config} (h : legal c = true) :
    0 < c.pwmZero ∧ c.pwmZero < c.pwmOne ∧ c.pwmOne ≤ c.periodTicks ∧
      c.pwmZero < 2 ^ slotBits c.slotWidth ∧ c.pwmOne < 2 ^ slotBits c.slotWidth := by
  simp only [legal, decide_eq_true_eq] at h
  omega

/-- Settles O13: by contraposition, a legal configuration meets every bound, and both `step` and `exec` begin with the
check of the configuration. -/
theorem illFormedConfigurationIsRefused : Obligations.IllFormedConfigurationIsRefused := by
  intro s i hbad
  have hill : legal s.cfg = false := by
    by_contra hlegal
    rw [Bool.not_eq_false] at hlegal
    have hcodes := legal_codes hlegal
    have hbounds := legal_bounds hlegal
    unfold dataSlots bufferSize at hbounds
    omega
  exact ⟨step_illFormed hill, exec_illFormed hill i⟩

/-! ### What every step keeps: the configuration, and the logs so far -/

/-- The configuration is the same and both logs are extended (00_scope.md R7, 10_state.md R43, R44). -/
structure Extends (s t : State) : Prop where
  cfg : t.cfg = s.cfg
  trace : s.trace <+: t.trace
  out : s.out <+: t.out

theorem extends_of_same {s t : State} (hc : t.cfg = s.cfg) (ht : t.trace = s.trace) (ho : t.out = s.out) :
    Extends s t :=
  ⟨hc, by rw [ht], by rw [ho]⟩

theorem extends_of_reseat {s u t : State} (hu : Reseat s u) (h : Extends u t) : Extends s t := by
  obtain ⟨a, p, d, rfl⟩ := hu
  exact ⟨h.cfg, h.trace, h.out⟩

theorem extends_respond (ctx : Ctx) (w : Resp) (s : State) : Extends s (respond ctx w s) :=
  ⟨rfl, List.prefix_rfl, List.prefix_append _ _⟩

theorem extends_emit {s t : State} (e : LineEvent) (h : Extends s t) : Extends s (emit e t) :=
  ⟨h.cfg, h.trace.trans (List.prefix_append _ _), h.out⟩

theorem extends_setMain {s t : State} (m : MainRec) (h : Extends s t) : Extends s (setMain m t) :=
  ⟨h.cfg, h.trace, h.out⟩

theorem extends_beginGetPixel (index : BitVec 16) (s : State) : Extends s (beginGetPixel index s) := by
  unfold beginGetPixel
  split
  · exact extends_of_same rfl rfl rfl
  · exact extends_respond ..

theorem extends_irqGetPixel (index : BitVec 16) (s : State) : Extends s (irqGetPixel index s) := by
  unfold irqGetPixel
  split <;> exact extends_respond ..

theorem extends_stopIfRunning (s : State) : Extends s (stopIfRunning s) := by
  unfold stopIfRunning
  split
  · exact extends_of_same rfl rfl rfl
  · split
    · exact extends_of_same (by simp) (by simp) (by simp)
    · exact extends_emit _ (extends_of_same (by simp) (by simp) (by simp))

theorem extends_endOfPass {s t : State} (h : Extends s t) : Extends s (endOfPass t) := by
  unfold endOfPass
  split
  · exact h
  · exact extends_emit _ ⟨h.cfg, h.trace, h.out⟩

theorem extends_emitSlot (s : State) : Extends s (emitSlot s) := by
  unfold emitSlot
  dsimp only
  split
  · exact extends_emit _ (extends_of_same rfl rfl rfl)
  · exact extends_endOfPass (extends_emit _ (extends_of_same rfl rfl rfl))

/-- The effects that touch a log are those of GET_PIXEL, PX_READ, XFER_STOP and XFER_EMIT. -/
theorem effect_extends {i : Instr} {s t : State} (h : Effect i s t) : Extends s t := by
  cases h with
  | getPixelMain => exact extends_beginGetPixel ..
  | getPixelIrq => exact extends_irqGetPixel ..
  | pxReadLast => exact extends_setMain _ (extends_respond ..)
  | xferStop => exact extends_setMain _ (extends_stopIfRunning s)
  | xferEmit => exact extends_emitSlot s
  | _ => exact extends_of_same (by simp) (by simp) (by simp)

/-- A step waits, records an illegal word, or is the effect of an instruction: each extends. -/
theorem step_extends {s t : State} (h : step s = .next t) : Extends s t := by
  obtain ⟨-, rfl | ⟨u, w, ctx, hu, rfl⟩ | ⟨i, u, hu, he⟩⟩ := step_effect h
  · exact extends_of_same rfl rfl rfl
  · exact extends_of_reseat hu (extends_of_same (by simp) (by simp) (by simp))
  · exact extends_of_reseat hu (effect_extends he)

/-- Settles O48, from the list of effects a step can have. -/
theorem stepKeepsTheConfiguration : Obligations.StepKeepsTheConfiguration := by
  intro s t h
  obtain ⟨hcfg, ⟨events, htrace⟩, ⟨responses, hout⟩⟩ := step_extends h
  exact ⟨hcfg, ⟨events, htrace.symm⟩, ⟨responses, hout.symm⟩⟩

/-! ### The slot-to-bit map (00_scope.md R15) and the codes -/

/-- The channels in the transmission order (20_memory.md R73). -/
theorem chanOfIndex_eq_getD {k : Nat} (hk : k < 3) : chanOfIndex k = [Chan.g, Chan.r, Chan.b].getD k .g := by
  match k, hk with
  | 0, _ => rfl
  | 1, _ => rfl
  | 2, _ => rfl

section
variable {i k j : Nat}

theorem slotPixel_of_parts (hk : k < 3) (hj : j < 8) : slotPixel (24 * i + 8 * k + j) = i := by
  unfold slotPixel
  omega

theorem slotChan_of_parts (hk : k < 3) (hj : j < 8) :
    slotChan (24 * i + 8 * k + j) = [Chan.g, Chan.r, Chan.b].getD k .g := by
  have hquot : (24 * i + 8 * k + j) % 24 / 8 = k := by omega
  rw [slotChan, hquot, chanOfIndex_eq_getD hk]

theorem slotBit_of_parts (hj : j < 8) : slotBit (24 * i + 8 * k + j) = 7 - j := by
  unfold slotBit
  omega

end

/-- Every data slot is a bit of a channel of a pixel of the store. -/
theorem slot_parts {n w : Nat} (hw : w < 24 * n) : ∃ i k j, i < n ∧ k < 3 ∧ j < 8 ∧ w = 24 * i + 8 * k + j :=
  ⟨w / 24, w % 24 / 8, w % 8, by omega, by omega, by omega, by omega⟩

theorem encSlot_data {s : State} {w : Nat} (hw : w < dataSlots s.cfg) :
    encSlot s w = bitCode s.cfg (pixelBit s w) := if_pos hw

theorem encSlot_reset {s : State} {w : Nat} (hw : dataSlots s.cfg ≤ w) : encSlot s w = 0 :=
  if_neg (Nat.not_lt.mpr hw)

theorem slotBits_le (width : SlotWidth) : slotBits width ≤ 32 := by cases width <;> decide

/-- zext_SLOT_WIDTH loses nothing of a number of SLOT_WIDTH bits. -/
theorem slotOf_toNat {c : Config} {v : Nat} (hv : v < 2 ^ slotBits c.slotWidth) : (slotOf c v).toNat = v := by
  have hpow : 2 ^ slotBits c.slotWidth ≤ 2 ^ 32 := Nat.pow_le_pow_right (by decide) (slotBits_le _)
  rw [slotOf, Nat.mod_eq_of_lt hv, BitVec.toNat_ofNat, Nat.mod_eq_of_lt (hv.trans_le hpow)]

/-- Settles O59: a slot index splits into pixel, channel and bit by 24 and 8, and a legal code fits SLOT_WIDTH. -/
theorem slotsCarryTheBitsInOrder : Obligations.SlotsCarryTheBitsInOrder := by
  intro s
  refine ⟨fun i k j hi hk hj => ?data, fun w => slot_parts, fun w => encSlot_reset, fun hlegal => ?codes⟩
  case data =>
    have hw : 24 * i + 8 * k + j < 24 * s.cfg.ledCount := by omega
    refine ⟨hw, ?_⟩
    rw [encSlot_data hw, pixelBit, slotPixel_of_parts hk hj, slotChan_of_parts hk hj, slotBit_of_parts hj, bitCode]
  case codes =>
    obtain ⟨-, -, -, hzero, hone⟩ := legal_codes hlegal
    exact ⟨slotOf_toNat hzero, slotOf_toNat hone, hzero, hone⟩

end Sys2Proof.Machine
end

section
/-! The state: what each effect may write, and what every step keeps of it (10_state.md R31 to R48). -/

namespace Sys2Proof.Machine

/-! ### A step keeps what its effects keep -/

/-- A property that does not see the model's own fields, and that a recorded illegal word and every effect keep, is kept by
every step. -/
theorem step_keeps {P : State → Prop} (reseat : ∀ s u, Reseat s u → P s → P u)
    (illegal : ∀ s w ctx, P s → P (raiseFault .illegalCommand w ctx s))
    (effect : ∀ i s t, Effect i s t → P s → P t) {s t : State} (h : step s = .next t) (hs : P s) : P t := by
  obtain ⟨-, rfl | ⟨u, w, ctx, hu, rfl⟩ | ⟨i, u, hu, he⟩⟩ := step_effect h
  · exact hs
  · exact illegal u w ctx (reseat s u hu hs)
  · exact effect i u t he (reseat s u hu hs)

/-! ### Stops and emits, field by field -/

/-- XFER_STOP does nothing, or draws and fails, or stops the engine (42_transfer_controller.md R225, R229). -/
theorem stopIfRunning_cases (s : State) :
    stopIfRunning s = s ∨ stopIfRunning s = afterDraw s ∨ stopIfRunning s = stopEngine (afterDraw s) := by
  unfold stopIfRunning
  split
  · exact .inl rfl
  · split
    · exact .inr (.inl rfl)
    · exact .inr (.inr rfl)

/-- XFER_START draws and fails, or starts the engine (42_transfer_controller.md R227, R229). -/
theorem startOrFail_cases (T : Buf) (s : State) :
    startOrFail T s = afterDraw s ∨ startOrFail T s = startEngine T (afterDraw s) := by
  unfold startOrFail
  split
  · exact .inl rfl
  · exact .inr rfl

/-- A stop leaves the engine as it is, or stops it. -/
theorem stopIfRunning_xstate (s : State) :
    (stopIfRunning s).xstate = s.xstate ∨ (stopIfRunning s).xstate = .stopped := by
  obtain h | h | h := stopIfRunning_cases s <;> simp [h]

/-- With XFER_MAY_FAIL = false a stop leaves the engine STOPPED (42_transfer_controller.md R225, R229). -/
theorem stopIfRunning_stops {s : State} (hf : s.cfg.xferMayFail = false) : (stopIfRunning s).xstate = .stopped := by
  cases hx : s.xstate with
  | stopped => rw [stopIfRunning_stopped hx, hx]
  | running => rw [stopIfRunning_running hx hf, stopEngine_xstate]

/-- TRUNC and SPLIT are sticky (10_state.md R40). -/
theorem stopIfRunning_sticky (s : State) :
    (s.trunc = true → (stopIfRunning s).trunc = true) ∧ (s.split = true → (stopIfRunning s).split = true) := by
  obtain h | h | h := stopIfRunning_cases s <;> simp +contextual [h, truncAfterStop, splitAfterStop]

/-- A stop appends nothing to TRACE, or HALT. -/
theorem stopIfRunning_trace (s : State) :
    (stopIfRunning s).trace = s.trace ∨ (stopIfRunning s).trace = s.trace ++ [.halt] := by
  obtain h | h | h := stopIfRunning_cases s <;> simp [h]

@[simp] theorem emitSlot_xcur (s : State) : (emitSlot s).xcur = xcurAfterEmit s := by rw [emitSlot_frame]

@[simp] theorem emitSlot_xcnt (s : State) : (emitSlot s).xcnt = xcntAfterEmit s := by rw [emitSlot_frame]

/-- An XFER_EMIT leaves the engine RUNNING, but at the one-shot end of a pass (42_transfer_controller.md R230, R231). -/
theorem emitSlot_xstate (s : State) :
    (emitSlot s).xstate = s.xstate ∨
      ((emitSlot s).xstate = .stopped ∧ s.cfg.xferMode = .oneShot ∧ bufferSize s.cfg ≤ s.xcur.toNat + 1) := by
  unfold emitSlot
  dsimp only
  split
  · exact .inl rfl
  · next hend =>
    unfold endOfPass
    split
    · exact .inl rfl
    · next hmode => exact .inr ⟨rfl, hmode, by simpa [passContinues] using hend⟩

/-- An XFER_EMIT appends the SLOT of the slot XCUR, and HALT at the one-shot end of a pass (42_transfer_controller.md
R230). -/
theorem emitSlot_trace (s : State) :
    (emitSlot s).trace = s.trace ++ [.slot (tbRead s s.xbuf s.xcur.toNat)] ∨
      (emitSlot s).trace = s.trace ++ [.slot (tbRead s s.xbuf s.xcur.toNat), .halt] := by
  unfold emitSlot endOfPass
  dsimp only
  split
  · exact .inl rfl
  · split
    · exact .inl rfl
    · exact .inr (by simp)

/-! ### Which effects write which field (10_state.md R31 to R44) -/

theorem effect_px {i : Instr} {s t : State} (h : Effect i s t) :
    t.px = s.px ∨ (∃ index ch val, i = .pxWrite index ch val) ∨
      (s.portCtx = .irq ∧ ∃ index r g b, i = .setPixel index r g b) := by
  cases h with
  | setPixelIrq index r g b port => exact .inr (.inr ⟨port, index, r, g, b, rfl⟩)
  | pxWriteBare | pxWriteSetp | pxWriteClr => exact .inr (.inl ⟨_, _, _, rfl⟩)
  | _ => exact .inl (by simp)

theorem effect_buffers {i : Instr} {s t : State} (h : Effect i s t) :
    SameBuffers s t ∨ ∃ T slot, i = .encWrite T slot := by
  cases h with
  | encWrite word kind T slot => exact .inr ⟨T, slot, rfl⟩
  | _ => exact .inl ⟨by simp, by simp⟩

theorem effect_xstate {i : Instr} {s t : State} (h : Effect i s t) :
    t.xstate = s.xstate ∨ (s.xstate = .stopped ∧ ∃ T, i = .xferStart T) ∨
      (t.xstate = .stopped ∧
        (i = .xferStop ∨ (i = .xferEmit ∧ s.cfg.xferMode = .oneShot ∧ bufferSize s.cfg ≤ s.xcur.toNat + 1))) := by
  cases h with
  | xferStop =>
    obtain hsame | hstop := stopIfRunning_xstate s
    · exact .inl hsame
    · exact .inr (.inr ⟨hstop, .inl rfl⟩)
  | xferStart word kind T main stopped => exact .inr (.inl ⟨stopped, T, rfl⟩)
  | xferEmit =>
    obtain hsame | ⟨hstop, hmode, hend⟩ := emitSlot_xstate s
    · exact .inl hsame
    · exact .inr (.inr ⟨hstop, .inr ⟨rfl, hmode, hend⟩⟩)
  | _ => exact .inl (by simp)

theorem effect_bufferNumbers {i : Instr} {s t : State} (h : Effect i s t) :
    (t.xbuf = s.xbuf ∧ t.act = s.act) ∨ ∃ T, i = .xferStart T := by
  cases h with
  | xferStart word kind T => exact .inr ⟨T, rfl⟩
  | _ => exact .inl ⟨by simp, by simp⟩

theorem effect_counters {i : Instr} {s t : State} (h : Effect i s t) :
    (t.xcur = s.xcur ∧ t.xcnt = s.xcnt) ∨ i = .xferEmit ∨ ∃ T, i = .xferStart T := by
  cases h with
  | xferStart word kind T => exact .inr (.inr ⟨T, rfl⟩)
  | xferEmit => exact .inr (.inl rfl)
  | _ => exact .inl ⟨by simp, by simp⟩

theorem effect_truncSplit {i : Instr} {s t : State} (h : Effect i s t) :
    (t.trunc = s.trunc ∧ t.split = s.split) ∨ i = .xferStop := by
  cases h with
  | xferStop => exact .inr rfl
  | _ => exact .inl ⟨by simp, by simp⟩

theorem effect_inited {i : Instr} {s t : State} (h : Effect i s t) : t.inited = s.inited ∨ i = .init := by
  cases h with
  | init => exact .inr rfl
  | _ => exact .inl (by simp)

theorem effect_trace {i : Instr} {s t : State} (h : Effect i s t) :
    t.trace = s.trace ∨ i = .xferStop ∨ i = .xferEmit := by
  cases h with
  | xferStop => exact .inr (.inl rfl)
  | xferEmit => exact .inr (.inr rfl)
  | _ => exact .inl (by simp)

theorem effect_out {i : Instr} {s t : State} (h : Effect i s t) :
    t.out = s.out ∨ (∃ index, i = .getPixel index) ∨ ∃ index ch, i = .pxRead index ch := by
  cases h with
  | getPixelMain index | getPixelIrq index => exact .inr (.inl ⟨index, rfl⟩)
  | pxReadLast index ch => exact .inr (.inr ⟨index, ch, rfl⟩)
  | _ => exact .inl (by simp)

/-- Settles O43, from the writers of the stores. -/
theorem onlyTheirWritersChangeTheStores : Obligations.OnlyTheirWritersChangeTheStores := by
  intro i s t h
  have he := (exec_effect h).2
  exact ⟨(effect_px he).resolve_left, (effect_buffers he).resolve_left⟩

/-- Settles O44, field by field from the writers of each. -/
theorem onlyTheirWritersChangeTheRest : Obligations.OnlyTheirWritersChangeTheRest := by
  intro i s t h
  have he := (exec_effect h).2
  refine ⟨fun hs ht => ?starts, fun hs ht => ?stops,
    fun hne => (effect_bufferNumbers he).resolve_left fun hsame => hne hsame.1,
    fun hne => (effect_bufferNumbers he).resolve_left fun hsame => hne hsame.2,
    fun hne => (effect_counters he).resolve_left fun hsame => hne hsame.1,
    fun hne => (effect_counters he).resolve_left fun hsame => hne hsame.2,
    fun hne => (effect_truncSplit he).resolve_left fun hsame => hne.elim (· hsame.1) (· hsame.2),
    (effect_inited he).resolve_left, (effect_trace he).resolve_left, (effect_out he).resolve_left⟩
  case starts =>
    obtain hsame | ⟨-, hstart⟩ | ⟨hstopped, -⟩ := effect_xstate he
    · simp [hs, ht] at hsame
    · exact hstart
    · simp [ht] at hstopped
  case stops =>
    obtain hsame | ⟨hstopped, -⟩ | ⟨-, hwho⟩ := effect_xstate he
    · simp [hs, ht] at hsame
    · simp [hs] at hstopped
    · exact hwho

/-! ### The sticky bits -/

theorem effect_sticky {i : Instr} {s t : State} (h : Effect i s t) :
    (s.inited = true → t.inited = true) ∧ (s.trunc = true → t.trunc = true) ∧ (s.split = true → t.split = true) := by
  cases h with
  | xferStop => exact ⟨by simp, stopIfRunning_sticky s⟩
  | _ => simp

/-- Settles O47: a step starts from the same bits, and no effect clears one. -/
theorem nothingClearsTheStickyBits : Obligations.NothingClearsTheStickyBits := by
  intro s t h
  obtain ⟨-, rfl | ⟨u, w, ctx, ⟨a, p, d, rfl⟩, rfl⟩ | ⟨i, u, ⟨a, p, d, rfl⟩, he⟩⟩ := step_effect h
  · exact ⟨id, id, id⟩
  · exact ⟨id, id, id⟩
  · exact (effect_sticky he :)

/-! ### The waveform of a slot (10_state.md R47, log entry 14) -/

/-- The ticks below the code are ACTIVE, the others IDLE. -/
theorem slotLevels_eq {c : Config} {code : Slot} (h : code.toNat ≤ c.periodTicks) :
    slotLevels c code =
      List.replicate code.toNat .active ++ List.replicate (c.periodTicks - code.toNat) .idle := by
  unfold slotLevels
  apply List.ext_getElem
  · simp [h]
  · intro tick hleft hright
    simp [List.getElem_append]

/-- Settles O60: the ticks of a slot are split at its code; the rest is what the definitions of the line say. -/
theorem slotIsHighForItsCode : Obligations.SlotIsHighForItsCode := by
  intro c code hcode
  exact ⟨congrArg LineStretch.period (slotLevels_eq hcode), rfl, rfl⟩

end Sys2Proof.Machine
end

section
/-! The block's invariant, kept by every step (10_state.md R31 to R42): one lemma per part of `BlockInv`, each over the list
of effects. -/

namespace Sys2Proof.Machine

/-! ### The stores -/

theorem storesOk_of_same {s t : State} (hc : t.cfg = s.cfg) (hp : t.px = s.px) (h0 : t.tb0 = s.tb0)
    (h1 : t.tb1 = s.tb1) (h : StoresOk s) : StoresOk t := by
  simpa only [StoresOk, hc, hp, h0, h1] using h

theorem storesOk_pxWrite {s : State} {i : Nat} (c : Chan) (v : Byte) (h : StoresOk s) (hi : i < s.cfg.ledCount) :
    StoresOk (pxWrite s i c v) := by
  obtain ⟨⟨hwf, hbelow⟩, hbuffers⟩ := h
  exact ⟨⟨cellsWf_write _ _ hwf, cellsBelow_write _ hbelow (pxElem_lt c hi)⟩, hbuffers⟩

theorem storesOk_irqSetPixel {s : State} (index : BitVec 16) (r g b : Byte) (h : StoresOk s) :
    StoresOk (irqSetPixel index r g b s) := by
  unfold irqSetPixel
  split
  · next hi =>
    have hi := hasPixel_iff.mp hi
    exact storesOk_pxWrite _ _ (storesOk_pxWrite _ _ (storesOk_pxWrite _ _ h hi) hi) hi
  · exact h

theorem storesOk_tbWrite {s : State} {T : Buf} {w : Nat} (v : Slot) (h : StoresOk s) (hT : hasBuffer s.cfg T = true)
    (hw : w < bufferSize s.cfg) : StoresOk (tbWrite s T w v) := by
  obtain ⟨hpx, ⟨hwf0, hbelow0⟩, ⟨hwf1, hbelow1⟩, hone⟩ := h
  cases T with
  | b0 => exact ⟨hpx, ⟨cellsWf_write _ _ hwf0, cellsBelow_write _ hbelow0 hw⟩, ⟨hwf1, hbelow1⟩, hone⟩
  | b1 =>
    have hdouble : s.cfg.doubleBuffer = true := by simpa [hasBuffer_iff] using hT
    exact ⟨hpx, ⟨hwf0, hbelow0⟩, ⟨cellsWf_write _ _ hwf1, cellsBelow_write _ hbelow1 hw⟩,
      fun hsingle => by simp [hdouble] at hsingle⟩

theorem effect_storesOk {i : Instr} {s t : State} (h : Effect i s t) (hs : StoresOk s) : StoresOk t := by
  cases h with
  | setPixelIrq => exact storesOk_irqSetPixel _ _ _ _ hs
  | pxWriteBare index ch val c chan inRange => exact storesOk_pxWrite c val hs (hasPixel_iff.mp inRange)
  | pxWriteSetp index ch val c word g r b pend chan inRange => exact storesOk_pxWrite c val hs (hasPixel_iff.mp inRange)
  | pxWriteClr index ch c word kind pend chan inRange => exact storesOk_pxWrite c 0 hs (hasPixel_iff.mp inRange)
  | encWrite word kind T slot main inRange buffer => exact storesOk_tbWrite _ hs buffer inRange
  | _ => exact storesOk_of_same (by simp) (by simp) (by simp) (by simp) hs

/-! ### The counters and the buffer numbers -/

theorem countersOk_of_same {s t : State} (hc : t.cfg = s.cfg) (hcur : t.xcur = s.xcur) (hcnt : t.xcnt = s.xcnt)
    (h : CountersOk s) : CountersOk t := by
  simpa only [CountersOk, hc, hcur, hcnt] using h

theorem countersOk_emitSlot {s : State} (hl : legal s.cfg = true) : CountersOk (emitSlot s) := by
  have hbounds := legal_bounds hl
  simp only [CountersOk, emitSlot_cfg, emitSlot_xcur, emitSlot_xcnt, xcurAfterEmit_toNat hl, xcntAfterEmit_toNat hl]
  split <;> omega

theorem effect_countersOk {i : Instr} {s t : State} (h : Effect i s t) (hl : legal s.cfg = true) (hs : CountersOk s) :
    CountersOk t := by
  cases h with
  | xferStart word kind T =>
    obtain hfails | hstarts := startOrFail_cases T s
    · exact countersOk_of_same (by simp) (by simp [hfails]) (by simp [hfails]) hs
    · obtain ⟨-, -, hsize, -, -⟩ := legal_bounds hl
      rw [hstarts]
      exact ⟨by simpa using Nat.lt_of_succ_le hsize, Nat.zero_le _⟩
  | xferEmit => exact countersOk_emitSlot hl
  | _ => exact countersOk_of_same (by simp) (by simp) (by simp) hs

/-- The buffer numbers stay, and the engine does not start. -/
theorem bufferNumbersOk_of_same {s t : State} (hc : t.cfg = s.cfg) (hx : t.xstate = s.xstate ∨ t.xstate = .stopped)
    (hb : t.xbuf = s.xbuf) (ha : t.act = s.act) (h : BufferNumbersOk s) : BufferNumbersOk t := by
  obtain ⟨hread, hone⟩ := h
  simp only [BufferNumbersOk, hc, hb, ha]
  refine ⟨fun hrun => ?_, hone⟩
  obtain hx | hx := hx
  · exact hread (hx ▸ hrun)
  · simp [hx] at hrun

theorem effect_bufferNumbersOk {i : Instr} {s t : State} (h : Effect i s t) (hs : BufferNumbersOk s) :
    BufferNumbersOk t := by
  cases h with
  | xferStop => exact bufferNumbersOk_of_same (by simp) (stopIfRunning_xstate s) (by simp) (by simp) hs
  | xferStart word kind T main stopped buffer =>
    obtain hfails | hstarts := startOrFail_cases T s
    · exact bufferNumbersOk_of_same (by simp) (.inl (by simp [hfails])) (by simp [hfails]) (by simp [hfails]) hs
    · rw [hstarts]
      refine ⟨fun _ => rfl, fun hsingle => ?_⟩
      have hT : T = .b0 := (hasBuffer_iff.mp buffer).resolve_right (by simpa using hsingle)
      exact ⟨hT, hT⟩
  | xferEmit =>
    exact bufferNumbersOk_of_same (by simp) ((emitSlot_xstate s).imp_right And.left) (by simp) (by simp) hs
  | _ => exact bufferNumbersOk_of_same (by simp) (.inl (by simp)) (by simp) (by simp) hs

/-! ### The fault record -/

theorem fcodeOf_range (code : FaultCode) : 1 ≤ (fcodeOf code).toNat ∧ (fcodeOf code).toNat ≤ 5 := by
  cases code <;> decide

theorem recordOk_raiseFault (code : FaultCode) (w : Word) (ctx : Ctx) (s : State) :
    RecordOk (raiseFault code w ctx s) :=
  ⟨fun h => by simp at h, fun _ => fcodeOf_range code⟩

theorem recordOk_of_same {s t : State} (hf : SameFault s t) (h : RecordOk s) : RecordOk t := by
  obtain ⟨hfault, hcode, hword, hctx⟩ := hf
  simpa only [RecordOk, hfault, hcode, hword, hctx] using h

theorem effect_recordOk {i : Instr} {s t : State} (h : Effect i s t) (hs : RecordOk s) : RecordOk t := by
  cases h with
  | mainFault | irqFault | startFault => exact recordOk_raiseFault ..
  | _ => exact recordOk_of_same ⟨by simp, by simp, by simp, by simp⟩ hs

/-! ### MAIN's record -/

/-- What a phase's range reads of the state: the configuration, ACT, INITED and whether the engine is STOPPED. -/
structure KeepsPhases (s t : State) : Prop where
  cfg : t.cfg = s.cfg
  act : t.act = s.act
  inited : s.inited = true → t.inited = true
  stopped : s.xstate = .stopped → t.xstate = .stopped

theorem keepsPhases_of_same {s t : State} (hc : t.cfg = s.cfg) (ha : t.act = s.act) (hi : t.inited = s.inited)
    (hx : t.xstate = s.xstate) : KeepsPhases s t := ⟨hc, ha, hi.trans, hx.trans⟩

theorem phaseOk_of_keeps {s t : State} {word : Word} {ph : Phase} (k : KeepsPhases s t) (h : PhaseOk s word ph) :
    PhaseOk t word ph := by
  have htarget : target t = target s := by unfold target; rw [k.cfg, k.act]
  cases ph with
  | setp =>
    obtain ⟨hi, hne, hsub, hword, hinited⟩ := h
    exact ⟨by rwa [k.cfg], hne, hsub, hword, k.inited hinited⟩
  | getp =>
    obtain ⟨hi, hrest⟩ := h
    exact ⟨by rwa [k.cfg], hrest⟩
  | clr =>
    obtain ⟨hne, hsub, hword, hinited⟩ := h
    exact ⟨hne, by rwa [k.cfg], hword, k.inited hinited⟩
  | enc =>
    obtain ⟨hT, hw, hword, hinited⟩ := h
    exact ⟨hT.trans htarget.symm, by rwa [k.cfg], hword, k.inited hinited⟩
  | stop =>
    obtain ⟨hT, hword, hinited⟩ := h
    exact ⟨hT.trans htarget.symm, hword, k.inited hinited⟩
  | start =>
    obtain ⟨hT, hword, hinited, hstopped⟩ := h
    exact ⟨hT.trans htarget.symm, hword, k.inited hinited, fun hcertain => k.stopped (hstopped (k.cfg ▸ hcertain))⟩

theorem mainOk_idle {s : State} (h : s.main = .idle) : MainOk s := by simp [MainOk, h]

theorem mainOk_busy {s : State} {word : Word} {ph : Phase} (h : s.main = .busy word ph) :
    MainOk s ↔ PhaseOk s word ph := by simp [MainOk, h]

theorem mainOk_of_keeps {s t : State} (k : KeepsPhases s t) (hm : t.main = s.main) (h : MainOk s) : MainOk t := by
  cases hs : s.main with
  | idle => exact mainOk_idle (hm.trans hs)
  | busy word ph => exact (mainOk_busy (hm.trans hs)).mpr (phaseOk_of_keeps k ((mainOk_busy hs).mp h))

theorem allPixelBytes_ne_nil {c : Config} (h : legal c = true) : allPixelBytes c ≠ [] :=
  List.ne_nil_of_mem (mem_allPixelBytes (ch := .g).mpr (legal_bounds h).1)

/-- A byte just read is there, and no longer pending. -/
theorem gotOk_gotSet {got : Got} {pend : List Chan} (c : Chan) (v : Byte) (h : GotOk got pend) :
    GotOk (gotSet got c v) (without pend c) := by
  obtain ⟨hg, hr, hb⟩ := h
  cases c <;> simp [GotOk, gotSet, mem_without, hg, hr, hb]

theorem mainOk_afterSetp {s : State} {word : Word} {index : BitVec 16} {g r b : Byte} {pend : List Chan} (c : Chan)
    (h : PhaseOk s word (.setp index g r b pend)) :
    MainOk (setMain (afterSetp word index g r b (without pend c)) s) := by
  obtain ⟨hi, -, hsub, hword, hinited⟩ := h
  unfold afterSetp
  split
  · trivial
  · next hne => exact ⟨hi, hne, (without_sublist _ _).trans hsub, hword, hinited⟩

theorem mainOk_afterClr {s : State} {word : Word} {kind : ClearKind} {pend : List (Nat × Chan)} (e : Nat × Chan)
    (hl : legal s.cfg = true) (h : PhaseOk s word (.clr kind pend)) :
    MainOk (setMain (afterClr s word kind (without pend e)) s) := by
  obtain ⟨-, hsub, hword, hinited⟩ := h
  unfold afterClr
  split
  · exact ⟨rfl, (legal_bounds hl).2.2.1, hword, hinited⟩
  · next hne => exact ⟨hne, (without_sublist _ _).trans hsub, hword, hinited⟩

theorem mainOk_afterEnc {s : State} {word : Word} {kind : ShowKind} {T : Buf} {w : Nat}
    (h : PhaseOk s word (.enc kind T w)) : MainOk (setMain (afterEnc s.cfg word kind T w) s) := by
  obtain ⟨hT, hw, hword, hinited⟩ := h
  unfold afterEnc
  split
  · exact ⟨hT, hword, hinited⟩
  · next hne => exact ⟨hT, Nat.lt_of_le_of_ne hw hne, hword, hinited⟩

theorem mainOk_beginSetPixel {s : State} (index : BitVec 16) (r g b : Byte) (hi : s.inited = true) (h : MainOk s) :
    MainOk (beginSetPixel index r g b s) := by
  unfold beginSetPixel
  split
  · next hpx => exact ⟨hpx, by simp [allChans], List.Sublist.refl _, rfl, hi⟩
  · exact h

theorem mainOk_beginGetPixel {s : State} (index : BitVec 16) (h : MainOk s) : MainOk (beginGetPixel index s) := by
  unfold beginGetPixel
  split
  · next hpx =>
    exact ⟨hpx, by simp [allChans], List.Sublist.refl _, rfl, .inr (mem_allChans _), .inr (mem_allChans _),
      .inr (mem_allChans _)⟩
  · exact mainOk_of_keeps (keepsPhases_of_same rfl rfl rfl rfl) rfl h

theorem emitSlot_keepsPhases (s : State) : KeepsPhases s (emitSlot s) where
  cfg := by simp
  act := by simp
  inited := by simp
  stopped hx := by
    obtain hsame | ⟨hstop, -⟩ := emitSlot_xstate s
    · exact hsame.trans hx
    · exact hstop

theorem effect_mainOk {i : Instr} {s t : State} (h : Effect i s t) (hl : legal s.cfg = true) (hs : MainOk s) :
    MainOk t := by
  cases h with
  | init => exact ⟨allPixelBytes_ne_nil hl, List.Sublist.refl _, rfl, rfl⟩
  | setPixelMain index r g b port main inited => exact mainOk_beginSetPixel _ _ _ _ inited hs
  | getPixelMain => exact mainOk_beginGetPixel _ hs
  | showFrame port main inited => exact ⟨rfl, (legal_bounds hl).2.2.1, rfl, inited⟩
  | clear port main inited => exact ⟨allPixelBytes_ne_nil hl, List.Sublist.refl _, rfl, inited⟩
  | pxWriteSetp index ch val c word g r b pend chan inRange main =>
    exact mainOk_afterSetp (s := pxWrite s index.toNat c val) c ((mainOk_busy main).mp hs)
  | pxWriteClr index ch c word kind pend chan inRange main =>
    exact mainOk_afterClr (s := pxWrite s index.toNat c 0) _ hl ((mainOk_busy main).mp hs)
  | pxReadMore index ch c word got pend chan inRange main mem more =>
    obtain ⟨hi, -, hsub, hword, hgot⟩ := (mainOk_busy main).mp hs
    exact ⟨hi, more, (without_sublist _ _).trans hsub, hword, gotOk_gotSet _ _ hgot⟩
  | pxReadLast | xferStart => exact mainOk_idle rfl
  | encWrite word kind T slot main =>
    exact mainOk_afterEnc (s := tbWrite s T slot.toNat _) ((mainOk_busy main).mp hs)
  | xferStop word kind T main =>
    obtain ⟨hT, hword, hinited⟩ := (mainOk_busy main).mp hs
    refine ⟨?_, hword, ?_, ?_⟩
    · rw [hT]; simp [target]
    · simpa using hinited
    · simpa using stopIfRunning_stops
  | xferEmit => exact mainOk_of_keeps (emitSlot_keepsPhases s) (by simp) hs
  | _ => exact mainOk_of_keeps (keepsPhases_of_same (by simp) (by simp) (by simp) (by simp)) (by simp) hs

/-! ### The invariant -/

theorem effect_blockInv {i : Instr} {s t : State} (h : Effect i s t) (hs : BlockInv s) : BlockInv t where
  legalConfig := by rw [(effect_extends h).cfg]; exact hs.legalConfig
  stores := effect_storesOk h hs.stores
  counters := effect_countersOk h hs.legalConfig hs.counters
  bufferNumbers := effect_bufferNumbersOk h hs.bufferNumbers
  record := effect_recordOk h hs.record
  mainRecord := effect_mainOk h hs.legalConfig hs.mainRecord

theorem blockInv_reseat {s u : State} (hu : Reseat s u) (hs : BlockInv s) : BlockInv u := by
  obtain ⟨a, p, d, rfl⟩ := hu
  exact { hs with mainRecord := mainOk_of_keeps (keepsPhases_of_same rfl rfl rfl rfl) rfl hs.mainRecord }

theorem blockInv_raiseFault {s : State} (code : FaultCode) (w : Word) (ctx : Ctx) (hs : BlockInv s) :
    BlockInv (raiseFault code w ctx s) :=
  { hs with
    record := recordOk_raiseFault code w ctx s
    mainRecord := mainOk_of_keeps (keepsPhases_of_same rfl rfl rfl rfl) rfl hs.mainRecord }

/-- Settles O50: no part of the invariant sees the model's own fields, and each effect keeps each part. -/
theorem stepKeepsTheBlockInvariant : Obligations.StepKeepsTheBlockInvariant := fun _ _ hs h =>
  step_keeps (fun _ _ => blockInv_reseat) (fun _ => blockInv_raiseFault .illegalCommand)
    (fun _ _ _ => effect_blockInv) h hs

end Sys2Proof.Machine
end

section
/-! Encoded buffers and the line: once encoded a buffer stays encoded, and the line invariant is kept by every step
(10_state.md R33, 41_encoder.md R182, R186, 42_transfer_controller.md R230). -/

namespace Sys2Proof.Machine

/-! ### Coded slots -/

theorem slotCoded_of_same {s t : State} {b : Buf} {w : Nat} (hc : t.cfg = s.cfg) (h0 : t.tb0 = s.tb0)
    (h1 : t.tb1 = s.tb1) (h : SlotCoded s b w) : SlotCoded t b w := by
  simpa only [SlotCoded, hc, tbRead_congr h0 h1] using h

/-- What an ENC_WRITE writes is coded (41_encoder.md R170, R171). -/
theorem slotCoded_encWrite_same {s : State} (T : Buf) (w : Nat) (h0 : cellsWf s.tb0 = true)
    (h1 : cellsWf s.tb1 = true) : SlotCoded (tbWrite s T w (encSlot s w)) T w := by
  simp only [SlotCoded, tbWrite_cfg, tbRead_tbWrite_same s T w _ h0 h1]
  split
  · next hdata =>
    rw [encSlot_data hdata, bitCode]
    cases pixelBit s w
    · exact .inl rfl
    · exact .inr rfl
  · next hreset => exact encSlot_reset (Nat.not_lt.mp hreset)

/-- An ENC_WRITE, wherever it writes, leaves a coded slot coded. -/
theorem slotCoded_encWrite {s : State} {b : Buf} {v : Nat} (T : Buf) (w : Nat) (h0 : cellsWf s.tb0 = true)
    (h1 : cellsWf s.tb1 = true) (h : SlotCoded s b v) : SlotCoded (tbWrite s T w (encSlot s w)) b v := by
  by_cases hat : b = T ∧ v = w
  · obtain ⟨rfl, rfl⟩ := hat
    exact slotCoded_encWrite_same b v h0 h1
  · simpa only [SlotCoded, tbWrite_cfg, tbRead_tbWrite s T b w v _ h0 h1, if_neg hat] using h

/-! ### Encoded buffers -/

theorem effect_slotCoded {i : Instr} {s t : State} {b : Buf} {w : Nat} (h : Effect i s t) (h0 : cellsWf s.tb0 = true)
    (h1 : cellsWf s.tb1 = true) (hs : SlotCoded s b w) : SlotCoded t b w := by
  cases h with
  | encWrite word kind T slot => exact slotCoded_encWrite T slot.toNat h0 h1 hs
  | _ => exact slotCoded_of_same (by simp) (by simp) (by simp) hs

theorem effect_bufferCoded {i : Instr} {s t : State} {b : Buf} (h : Effect i s t) (h0 : cellsWf s.tb0 = true)
    (h1 : cellsWf s.tb1 = true) (hs : BufferCoded s b) : BufferCoded t b := by
  intro w hw
  rw [(effect_extends h).cfg] at hw
  exact effect_slotCoded h h0 h1 (hs w hw)

/-- Settles O52: the only effect that writes a buffer writes the code of a slot. -/
theorem encodedBufferStaysEncoded : Obligations.EncodedBufferStaysEncoded := by
  intro s t b h0 h1 hs h
  obtain ⟨-, rfl | ⟨u, w, ctx, ⟨a, p, d, rfl⟩, rfl⟩ | ⟨i, u, ⟨a, p, d, rfl⟩, he⟩⟩ := step_effect h
  · exact hs
  · exact hs
  · exact effect_bufferCoded he h0 h1 hs

/-! ### The encode in progress -/

theorem encodeOk_of_same {s t : State} (hm : t.main = s.main) (hc : t.cfg = s.cfg) (h0 : t.tb0 = s.tb0)
    (h1 : t.tb1 = s.tb1) (h : EncodeOk s) : EncodeOk t := by
  simpa only [EncodeOk, hm, BufferCoded, SlotCoded, hc, tbRead_congr h0 h1] using h

/-- The slots below the next one are coded, and when none is left the buffer is (41_encoder.md R174). -/
theorem encodeOk_encWrite {s : State} {word : Word} {kind : ShowKind} {T : Buf} {w : Nat} (h0 : cellsWf s.tb0 = true)
    (h1 : cellsWf s.tb1 = true) (hbelow : ∀ v < w, SlotCoded s T v) :
    EncodeOk (setMain (afterEnc s.cfg word kind T w) (tbWrite s T w (encSlot s w))) := by
  have hupto : ∀ v < w + 1, SlotCoded (tbWrite s T w (encSlot s w)) T v := by
    intro v hv
    obtain hv | rfl := Nat.lt_succ_iff_lt_or_eq.mp hv
    · exact slotCoded_encWrite T w h0 h1 (hbelow v hv)
    · exact slotCoded_encWrite_same T v h0 h1
  unfold afterEnc
  split
  · next hlast => exact fun v hv => hupto v (hlast ▸ hv)
  · exact hupto

theorem encodeOk_beginSetPixel {s : State} (index : BitVec 16) (r g b : Byte) (h : EncodeOk s) :
    EncodeOk (beginSetPixel index r g b s) := by
  unfold beginSetPixel
  split
  · trivial
  · exact h

theorem encodeOk_beginGetPixel {s : State} (index : BitVec 16) (h : EncodeOk s) : EncodeOk (beginGetPixel index s) := by
  unfold beginGetPixel
  split
  · trivial
  · exact encodeOk_of_same rfl rfl rfl rfl h

theorem encodeOk_afterSetp (s : State) (word : Word) (index : BitVec 16) (g r b : Byte) (pend : List Chan) :
    EncodeOk (setMain (afterSetp word index g r b pend) s) := by
  unfold afterSetp
  split <;> trivial

/-- A new encode has written nothing yet. -/
theorem encodeOk_afterClr (s u : State) (word : Word) (kind : ClearKind) (pend : List (Nat × Chan)) :
    EncodeOk (setMain (afterClr u word kind pend) s) := by
  unfold afterClr
  split
  · exact fun v hv => absurd hv (Nat.not_lt_zero v)
  · trivial

theorem encodeOk_enc {s : State} {word : Word} {kind : ShowKind} {T : Buf} {w : Nat}
    (hm : s.main = .busy word (.enc kind T w)) : EncodeOk s ↔ ∀ v < w, SlotCoded s T v := by simp only [EncodeOk, hm]

theorem encodeOk_stop {s : State} {word : Word} {kind : ShowKind} {T : Buf}
    (hm : s.main = .busy word (.stop kind T)) : EncodeOk s ↔ BufferCoded s T := by simp only [EncodeOk, hm]

theorem encodeOk_start {s : State} {word : Word} {kind : ShowKind} {T : Buf}
    (hm : s.main = .busy word (.start kind T)) : EncodeOk s ↔ BufferCoded s T := by simp only [EncodeOk, hm]

theorem effect_encodeOk {i : Instr} {s t : State} (h : Effect i s t) (h0 : cellsWf s.tb0 = true)
    (h1 : cellsWf s.tb1 = true) (hs : EncodeOk s) : EncodeOk t := by
  have hkeeps : ∀ {b}, BufferCoded s b → BufferCoded t b := effect_bufferCoded h h0 h1
  cases h with
  | init | clear | pxReadMore | pxReadLast => trivial
  | setPixelMain => exact encodeOk_beginSetPixel _ _ _ _ hs
  | getPixelMain => exact encodeOk_beginGetPixel _ hs
  | showFrame => exact fun v hv => absurd hv (Nat.not_lt_zero v)
  | pxWriteSetp => exact encodeOk_afterSetp ..
  | pxWriteClr => exact encodeOk_afterClr ..
  | encWrite word kind T slot main => exact encodeOk_encWrite h0 h1 ((encodeOk_enc main).mp hs)
  | xferStop word kind T main => exact (encodeOk_start rfl).mpr (hkeeps ((encodeOk_stop main).mp hs))
  | xferStart => trivial
  | _ => exact encodeOk_of_same (by simp) (by simp) (by simp) (by simp) hs

/-! ### What the engine reads -/

/-- A RUNNING engine reads the buffer it read before, or the one that XFER_START gave it. -/
theorem effect_reads {i : Instr} {s t : State} (h : Effect i s t) (hrun : t.xstate = .running) :
    (s.xstate = .running ∧ t.xbuf = s.xbuf) ∨
      ∃ word kind, s.main = .busy word (.start kind t.xbuf) := by
  cases h with
  | xferStop =>
    obtain hsame | hstop := stopIfRunning_xstate s
    · exact .inl ⟨hsame.symm.trans hrun, by simp⟩
    · simp [hstop] at hrun
  | xferStart word kind T main stopped =>
    obtain hfails | hstarts := startOrFail_cases T s
    · simp [hfails, stopped] at hrun
    · exact .inr ⟨word, kind, by simp [hstarts, main]⟩
  | xferEmit running => exact .inl ⟨running, by simp⟩
  | _ => exact .inl ⟨by simpa using hrun, by simp⟩

theorem effect_readsCoded {i : Instr} {s t : State} (h : Effect i s t) (h0 : cellsWf s.tb0 = true)
    (h1 : cellsWf s.tb1 = true) (hs : LineInv s) (hrun : t.xstate = .running) : BufferCoded t t.xbuf := by
  obtain ⟨hrunning, hb⟩ | ⟨word, kind, hm⟩ := effect_reads h hrun
  · rw [hb]
    exact effect_bufferCoded h h0 h1 (hs.readsCoded hrunning)
  · exact effect_bufferCoded h h0 h1 ((encodeOk_start hm).mp hs.encode)

/-! ### The line -/

theorem eventOk_slot {s : State} {b : Buf} {w : Nat} (h : SlotCoded s b w) : EventOk s.cfg (.slot (tbRead s b w)) := by
  unfold SlotCoded at h
  split at h
  · exact h.elim .inl (.inr ∘ .inl)
  · exact .inr (.inr h)

/-- What an effect appends to TRACE: the slot the engine reads, or HALT. -/
theorem effect_event {i : Instr} {s t : State} {e : LineEvent} (h : Effect i s t) (he : e ∈ t.trace) :
    e ∈ s.trace ∨ e = .halt ∨
      (s.xstate = .running ∧ s.xcur.toNat < bufferSize s.cfg ∧ e = .slot (tbRead s s.xbuf s.xcur.toNat)) := by
  cases h with
  | xferStop =>
    rw [setMain_trace] at he
    obtain ht | ht := stopIfRunning_trace s <;> simp only [ht, List.mem_append, List.mem_singleton] at he
    · exact .inl he
    · exact he.imp_right .inl
  | xferEmit running slot =>
    have hcur := (hasSlot_iff.mp slot).2
    obtain ht | ht := emitSlot_trace s <;>
      simp only [ht, List.mem_append, List.mem_cons, List.not_mem_nil, or_false] at he
    · exact he.imp_right fun he => .inr ⟨running, hcur, he⟩
    · exact he.imp_right fun he => he.symm.imp_right fun he => ⟨running, hcur, he⟩
  | _ => exact .inl (by simpa using he)

theorem effect_lineInv {i : Instr} {s t : State} (h : Effect i s t) (hb : BlockInv s) (hs : LineInv s) :
    LineInv t := by
  obtain ⟨-, ⟨h0, -⟩, ⟨h1, -⟩, -⟩ := hb.stores
  refine ⟨effect_readsCoded h h0 h1 hs, effect_encodeOk h h0 h1 hs.encode, fun e he => ?_⟩
  rw [(effect_extends h).cfg]
  obtain hold | rfl | ⟨hrun, hcur, rfl⟩ := effect_event h he
  · exact hs.trace e hold
  · trivial
  · exact eventOk_slot (hs.readsCoded hrun _ hcur)

/-- The line invariant reads the configuration, the buffers, the engine, MAIN and TRACE only. -/
theorem lineInv_of_same {s t : State} (hm : t.main = s.main) (hc : t.cfg = s.cfg) (h0 : t.tb0 = s.tb0)
    (h1 : t.tb1 = s.tb1) (hx : t.xstate = s.xstate) (hb : t.xbuf = s.xbuf) (ht : t.trace = s.trace) (h : LineInv s) :
    LineInv t where
  readsCoded hrun := by
    simpa only [BufferCoded, SlotCoded, hc, hb, tbRead_congr h0 h1] using h.readsCoded (hx ▸ hrun)
  encode := encodeOk_of_same hm hc h0 h1 h.encode
  trace := by simpa only [hc, ht] using h.trace

/-- Settles O51: both invariants together are kept by every effect, and see none of the model's own fields. -/
theorem stepKeepsTheLineInvariant : Obligations.StepKeepsTheLineInvariant := by
  intro s t hb hl h
  refine (step_keeps (P := fun s => BlockInv s ∧ LineInv s) ?reseat ?illegal ?effect h ⟨hb, hl⟩).2
  case reseat =>
    rintro s u hu ⟨hb, hl⟩
    refine ⟨blockInv_reseat hu hb, ?_⟩
    obtain ⟨a, p, d, rfl⟩ := hu
    exact lineInv_of_same (s := s) rfl rfl rfl rfl rfl rfl rfl hl
  case illegal =>
    rintro s w ctx ⟨hb, hl⟩
    exact ⟨blockInv_raiseFault _ w ctx hb, lineInv_of_same (s := s) rfl rfl rfl rfl rfl rfl rfl hl⟩
  case effect =>
    rintro i s t he ⟨hb, hl⟩
    exact ⟨effect_blockInv he hb, effect_lineInv he hb hl⟩

end Sys2Proof.Machine
end

section
/-! The memory (20_memory.md): the stores stay canonical, IRQ leaves MAIN alone, and every step that the block is said to be
able to take has a next state. -/

namespace Sys2Proof.Machine

/-! ### The canonical form (R70) -/

theorem memoryWf_of_same {s t : State} (hp : t.px = s.px) (h0 : t.tb0 = s.tb0) (h1 : t.tb1 = s.tb1)
    (h : Memory.wf s = true) : Memory.wf t = true := by
  rw [memoryWf_iff] at h ⊢
  rwa [hp, h0, h1]

theorem memoryWf_irqSetPixel {s : State} (index : BitVec 16) (r g b : Byte) (h : Memory.wf s = true) :
    Memory.wf (irqSetPixel index r g b s) = true := by
  unfold irqSetPixel
  split
  · exact memoryWf_writePixel _ _ _ _ h
  · exact h

/-- A store is written by PxWrite, TbWrite and the whole pixel of IRQ, and by nothing else. -/
theorem effect_memoryWf {i : Instr} {s t : State} (h : Effect i s t) (hs : Memory.wf s = true) : Memory.wf t = true := by
  cases h with
  | setPixelIrq => exact memoryWf_irqSetPixel _ _ _ _ hs
  | pxWriteBare index ch val c => exact memoryWf_pxWrite _ c val hs
  | pxWriteSetp index ch val c => exact memoryWf_pxWrite index.toNat c val hs
  | pxWriteClr index ch c => exact memoryWf_pxWrite index.toNat c 0 hs
  | encWrite word kind T slot => exact memoryWf_tbWrite T slot.toNat (encSlot s slot.toNat) hs
  | _ => exact memoryWf_of_same (by simp) (by simp) (by simp) hs

/-- Settles O49: the canonical form does not see the model's own fields or the fault record, and every effect keeps it. -/
theorem stepKeepsTheStoresCanonical : Obligations.StepKeepsTheStoresCanonical := by
  intro s t hs h
  refine step_keeps (P := fun u => Memory.wf u = true) ?reseat ?illegal (fun _ _ _ => effect_memoryWf) h hs
  case reseat =>
    rintro s u ⟨a, p, d, rfl⟩ hs
    exact memoryWf_of_same rfl rfl rfl hs
  case illegal =>
    intro s w ctx hs
    exact memoryWf_of_same rfl rfl rfl hs

/-! ### The commands of IRQ (R81) -/

/-- A command of IRQ raises a fault, or is a whole SET_PIXEL or GET_PIXEL (60_exceptions.md R272). -/
theorem effect_irq {i : Instr} {s t : State} (h : Effect i s t) (hcommand : i.isCommand = true) (hport : s.portCtx = .irq) :
    (∃ code, t = raiseFault code (encode i) .irq s) ∨ (∃ index r g b, t = irqSetPixel index r g b s) ∨
      ∃ index, t = irqGetPixel index s := by
  have hmain : s.portCtx ≠ .main := by simp [hport]
  cases h with
  | irqFault code => exact .inl ⟨code, rfl⟩
  | setPixelIrq index r g b => exact .inr (.inl ⟨index, r, g, b, rfl⟩)
  | getPixelIrq index => exact .inr (.inr ⟨index, rfl⟩)
  | mainFault code command port => exact absurd port hmain
  | init port | setPixelMain _ _ _ _ port | getPixelMain _ port | showFrame port | clear port => exact absurd port hmain
  | pxWriteBare | pxWriteSetp | pxWriteClr | pxReadMore | pxReadLast | encWrite | xferStop | startFault | xferStart
  | xferEmit => cases hcommand

/-- Settles O46: none of the three things a command of IRQ can do writes these fields. -/
theorem interruptCommandLeavesMainAlone : Obligations.InterruptCommandLeavesMainAlone := by
  intro i s t hcommand hport h
  obtain ⟨code, rfl⟩ | ⟨index, r, g, b, rfl⟩ | ⟨index, rfl⟩ := effect_irq (exec_effect h).2 hcommand hport <;>
    simp [SameBuffers, SameEngine, SameFlags, SameModel]

/-! ### An enabled micro-step completes (R84, 70_reset_and_hazards.md R330) -/

/-- A buffer that is 0 where there is only one buffer exists. -/
theorem buf_exists {c : Config} {b : Buf} (h : c.doubleBuffer = false → b = .b0) : b = .b0 ∨ c.doubleBuffer = true := by
  cases hdouble : c.doubleBuffer with
  | true => exact .inr rfl
  | false => exact .inl (h hdouble)

/-- The target buffer exists (42_transfer_controller.md R213). -/
theorem target_exists {s : State} (h : BufferNumbersOk s) : target s = .b0 ∨ s.cfg.doubleBuffer = true := by
  obtain ⟨-, hone⟩ := h
  exact buf_exists fun hsingle => by simp [target, hsingle, hone hsingle]

/-- The buffer the engine reads exists. -/
theorem xbuf_exists {s : State} (h : BufferNumbersOk s) : s.xbuf = .b0 ∨ s.cfg.doubleBuffer = true := by
  obtain ⟨-, hone⟩ := h
  exact buf_exists fun hsingle => (hone hsingle).2

/-- With no byte pending the response is complete (40_pixel_store.md R151). -/
theorem respGot_of_gotOk {got : Got} (h : GotOk got []) : ∃ w, respGot got = some w := by
  simp only [GotOk, List.not_mem_nil, or_false, Option.isSome_iff_exists] at h
  obtain ⟨⟨g, hg⟩, ⟨r, hr⟩, ⟨b, hb⟩⟩ := h
  exact ⟨respPixel r g b, by simp [respGot, hr, hg, hb]⟩

theorem afterGetp_completes {s : State} (word : Word) (index : BitVec 16) {got : Got} {pend : List Chan}
    (h : GotOk got pend) : ∃ t, afterGetp s word index got pend = .next t := by
  unfold afterGetp
  split
  · next hlast =>
    subst hlast
    obtain ⟨w, hw⟩ := respGot_of_gotOk h
    exact ⟨setMain .idle (respond .main w s), by rw [hw]⟩
  · exact ⟨_, rfl⟩

section
variable {s : State} {i : Instr} {word : Word}

theorem setp_completes {index : BitVec 16} {g r b : Byte} {pend : List Chan} (hlive : Live s)
    (hm : s.main = .busy word (.setp index g r b pend)) (hok : PhaseOk s word (.setp index g r b pend))
    (hi : i ∈ mainMicros s) : ∃ t, exec i s = .next t := by
  simp only [mainMicros, hm, List.mem_map] at hi
  obtain ⟨c, hc, rfl⟩ := hi
  obtain ⟨hpixel, -⟩ := hok
  exact ⟨_, exec_pxWrite_setp hlive (hasPixel_iff.mp hpixel) hm hc⟩

theorem getp_completes {index : BitVec 16} {got : Got} {pend : List Chan} (hlive : Live s)
    (hm : s.main = .busy word (.getp index got pend)) (hok : PhaseOk s word (.getp index got pend))
    (hi : i ∈ mainMicros s) : ∃ t, exec i s = .next t := by
  simp only [mainMicros, hm, List.mem_map] at hi
  obtain ⟨c, hc, rfl⟩ := hi
  obtain ⟨hpixel, -, -, -, hgot⟩ := hok
  rw [exec_pxRead hlive (hasPixel_iff.mp hpixel) hm hc]
  exact afterGetp_completes word index (gotOk_gotSet c _ hgot)

/-- A pending byte is a byte of a pixel, whose number fits INDEX. -/
theorem clr_completes {kind : ClearKind} {pend : List (Nat × Chan)} (hlive : Live s)
    (hm : s.main = .busy word (.clr kind pend)) (hok : PhaseOk s word (.clr kind pend))
    (hi : i ∈ mainMicros s) : ∃ t, exec i s = .next t := by
  simp only [mainMicros, hm, List.mem_map] at hi
  obtain ⟨⟨p, c⟩, hmem, rfl⟩ := hi
  obtain ⟨-, hsub, -⟩ := hok
  have hp : p < s.cfg.ledCount := mem_allPixelBytes.mp (hsub.subset hmem)
  have hfits : (BitVec.ofNat 16 p).toNat = p := by
    have hbounds := legal_bounds hlive.1
    rw [BitVec.toNat_ofNat, Nat.mod_eq_of_lt (by omega)]
  exact ⟨_, exec_pxWrite_clr hlive (by rwa [hfits]) hm (by rwa [hfits])⟩

/-- The next slot's number fits SLOT, and the target buffer exists. -/
theorem enc_completes {kind : ShowKind} {T : Buf} {w : Nat} (hlive : Live s) (hb : BufferNumbersOk s)
    (hm : s.main = .busy word (.enc kind T w)) (hok : PhaseOk s word (.enc kind T w))
    (hi : i ∈ mainMicros s) : ∃ t, exec i s = .next t := by
  simp only [mainMicros, hm, List.mem_singleton] at hi
  subst hi
  obtain ⟨rfl, hw, -⟩ := hok
  have hfits : (BitVec.ofNat 24 w).toNat = w := by
    have hbounds := legal_bounds hlive.1
    rw [BitVec.toNat_ofNat, Nat.mod_eq_of_lt (by omega)]
  exact ⟨_, exec_encWrite hlive (by rwa [hfits]) (by rwa [hfits]) (target_exists hb)⟩

theorem stop_completes {kind : ShowKind} {T : Buf} (hlive : Live s) (hm : s.main = .busy word (.stop kind T))
    (hi : i ∈ mainMicros s) : ∃ t, exec i s = .next t := by
  simp only [mainMicros, hm, List.mem_singleton] at hi
  subst hi
  exact ⟨_, exec_xferStop hlive hm⟩

/-- A start of a RUNNING engine records its fault, which is a next state too (42_transfer_controller.md R227). -/
theorem start_completes {kind : ShowKind} {T : Buf} (hlive : Live s) (hb : BufferNumbersOk s)
    (hm : s.main = .busy word (.start kind T)) (hok : PhaseOk s word (.start kind T))
    (hi : i ∈ mainMicros s) : ∃ t, exec i s = .next t := by
  simp only [mainMicros, hm, List.mem_singleton] at hi
  subst hi
  obtain ⟨rfl, -⟩ := hok
  cases hx : s.xstate with
  | running => exact ⟨_, exec_xferStart_running hlive hm hx⟩
  | stopped => exact ⟨_, exec_xferStart hlive hm hx (target_exists hb)⟩

theorem mainMicro_completes (hinv : BlockInv s) (hlive : Live s) (hi : i ∈ mainMicros s) : ∃ t, exec i s = .next t := by
  cases hm : s.main with
  | idle => simp [mainMicros, hm] at hi
  | busy word phase =>
    have hok : PhaseOk s word phase := (mainOk_busy hm).mp hinv.mainRecord
    cases phase with
    | setp => exact setp_completes hlive hm hok hi
    | getp => exact getp_completes hlive hm hok hi
    | clr => exact clr_completes hlive hm hok hi
    | enc => exact enc_completes hlive hinv.bufferNumbers hm hok hi
    | stop => exact stop_completes hlive hm hi
    | start => exact start_completes hlive hinv.bufferNumbers hm hok hi

theorem engineMicro_completes (hinv : BlockInv s) (hlive : Live s) (hi : i ∈ engineMicros s) :
    ∃ t, exec i s = .next t := by
  cases hx : s.xstate with
  | stopped => simp [engineMicros, hx] at hi
  | running =>
    simp only [engineMicros, hx, List.mem_singleton] at hi
    subst hi
    obtain ⟨hcur, -⟩ := hinv.counters
    exact ⟨_, exec_xferEmit hlive hx hcur (xbuf_exists hinv.bufferNumbers)⟩

end

/-- Settles O55: the invariant puts each operand of an enabled micro-step in range, agent by agent and phase by phase. -/
theorem enabledMicroStepsComplete : Obligations.EnabledMicroStepsComplete := by
  intro s i hinv hfault hi
  have hlive : Live s := ⟨hinv.legalConfig, hfault⟩
  obtain hi | hi := List.mem_append.mp hi
  · exact mainMicro_completes hinv hlive hi
  · exact engineMicro_completes hinv hlive hi

end Sys2Proof.Machine
end

section
/-! The word of an instruction is read back: its OP byte names its row, so the first row it spells is its own
(30_encoding.md R104, R105, R107). -/

namespace Sys2Proof

/-- OP of a CMD word, UOP of a MICRO word: bits 63:56 (30_encoding.md R101, R107). -/
def opByte (w : Word) : BitVec 8 := w.extractLsb' 56 8

/-- The row whose fixed bits hold an OP byte. -/
def rowOfOp (op : BitVec 8) : Option Row := (cmdRows ++ microRows).find? (fun r => opByte r.pattern == op)

theorem rowOfOp_pattern (r : Row) : rowOfOp (opByte r.pattern) = some r := by cases r <;> decide

theorem opByte_and (v w : Word) : opByte (v &&& w) = opByte v &&& opByte w := BitVec.extractLsb'_and

/-- Every row fixes the whole OP byte. -/
theorem opByte_of_hits {r : Row} {w : Word} (h : r.hits w = true) : opByte w = opByte r.pattern := by
  have hmask : opByte r.mask = BitVec.allOnes 8 := by cases r <;> decide
  rw [← eq_of_beq h, opByte_and, hmask, BitVec.and_allOnes]

/-- No word spells two rows. -/
theorem hits_unique {r r' : Row} {w : Word} (h : r.hits w = true) (h' : r'.hits w = true) : r = r' := by
  have hop : opByte r.pattern = opByte r'.pattern := (opByte_of_hits h).symm.trans (opByte_of_hits h')
  simpa [rowOfOp_pattern] using congrArg rowOfOp hop

theorem findRow_of_mem {rows : List Row} {r : Row} {w : Word} (h : r.hits w = true) (hr : r ∈ rows) :
    findRow rows w = some r := by
  obtain ⟨r', hfind⟩ := Option.isSome_iff_exists.mp (List.find?_isSome (p := (Row.hits · w)).mpr ⟨r, hr, h⟩)
  have hhits : r'.hits w = true := List.find?_some (p := (Row.hits · w)) hfind
  rw [findRow, hfind, hits_unique hhits h]

theorem findRow_of_not_mem {rows : List Row} {r : Row} {w : Word} (h : r.hits w = true) (hr : r ∉ rows) :
    findRow rows w = none :=
  List.find?_eq_none.mpr fun _ hmem hhits => hr (hits_unique hhits h ▸ hmem)

theorem mem_microRows {r : Row} : r ∈ microRows ↔ r ∉ cmdRows := by cases r <;> decide

theorem isCommand_iff {i : Instr} : i.isCommand = true ↔ i.row ∈ cmdRows := List.contains_iff_mem

theorem encode_hits (i : Instr) : i.row.hits (encode i) = true := by
  cases i with
  | init => exact Laws.RowMatch.init
  | setPixel => exact Laws.RowMatch.setPixel ..
  | getPixel => exact Laws.RowMatch.getPixel ..
  | showFrame => exact Laws.RowMatch.showFrame
  | clear => exact Laws.RowMatch.clear
  | pxWrite => exact Laws.RowMatch.pxWrite ..
  | pxRead => exact Laws.RowMatch.pxRead ..
  | encWrite => exact Laws.RowMatch.encWrite ..
  | xferStop => exact Laws.RowMatch.xferStop
  | xferStart => exact Laws.RowMatch.xferStart ..
  | xferEmit => exact Laws.RowMatch.xferEmit

theorem findRow_microRows_of_command {i : Instr} (h : i.isCommand = true) : findRow microRows (encode i) = none :=
  findRow_of_not_mem (encode_hits i) fun hmicro => mem_microRows.mp hmicro (isCommand_iff.mp h)

theorem findRow_microRows_of_micro {i : Instr} (h : i.isCommand ≠ true) : findRow microRows (encode i) = some i.row :=
  findRow_of_mem (encode_hits i) (mem_microRows.mpr (mt isCommand_iff.mpr h))

theorem decodePort_encode {i : Instr} (h : i.isCommand = true) : decodePort (encode i) = some i := by
  rw [decodePort, findRow_of_mem (encode_hits i) (isCommand_iff.mp h), Option.map_some, build_encode]

theorem decodePort_encode_of_micro {i : Instr} (h : i.isCommand ≠ true) : decodePort (encode i) = none := by
  rw [decodePort, findRow_of_not_mem (encode_hits i) (mt isCommand_iff.mpr h), Option.map_none]

theorem decodeMicro_encode {i : Instr} (h : i.isCommand ≠ true) (hwf : i.wellFormed = true) :
    decodeMicro (encode i) = .ok i := by
  simp only [decodeMicro, findRow_microRows_of_micro h, build_encode, hwf, if_true]

/-- Every instruction is read back from its word. -/
theorem decode_encode {i : Instr} (hwf : i.wellFormed = true) : decode (encode i) = .ok i := by
  by_cases h : i.isCommand = true
  · simp only [decode, decodePort_encode h]
  · simp only [decode, decodePort_encode_of_micro h, decodeMicro_encode h hwf]

/-- A MICRO word names no command. -/
theorem decodeMicro_not_command {w : Word} {i : Instr} (h : decodeMicro w = .ok i) : i.isCommand ≠ true := by
  unfold decodeMicro at h
  split at h
  · cases h
  · next r hfind =>
    have hmicro : r ∈ microRows := List.mem_of_find?_eq_some hfind
    have hrow : (r.build w).row = r := by cases r <;> rfl
    split at h
    · cases h
      exact fun hcommand => mem_microRows.mp hmicro (hrow ▸ isCommand_iff.mp hcommand)
    · cases h

end Sys2Proof
end

section
/-! Whose step is next (20_memory.md R84, R85, R92): the micro-step a MICRO word names, a placed instruction, and the block
by itself. -/

namespace Sys2Proof.Machine

/-! ### A named micro-step -/

/-- A micro-step may be taken while a command is in progress, XFER_EMIT always (R84). -/
theorem microTurn_iff {i : Instr} (s : State) (h : i.isCommand ≠ true) :
    microTurn i s = true ↔ i = .xferEmit ∨ s.main ≠ .idle := by
  cases i with
  | init | setPixel | getPixel | showFrame | clear => exact absurd rfl h
  | xferEmit => simp [microTurn]
  | pxWrite | pxRead | encWrite | xferStop | xferStart => simp [microTurn]

theorem takeMicro_ok {w : Word} {i : Instr} (s : State) (h : decodeMicro w = .ok i) :
    takeMicro w s = if i = .xferEmit ∨ s.main ≠ .idle then exec i s else .fault .notEnabled := by
  simp only [takeMicro, h, microTurn_iff s (decodeMicro_not_command h)]

/-- Settles O8: the step is `takeMicro`, whose condition is that of R84. -/
theorem stepRunsTheNamedMicroStep : Obligations.StepRunsTheNamedMicroStep := by
  intro s w rest i hlive hagenda hdecode
  rw [step_micro hlive hagenda, takeMicro_ok _ hdecode]

/-! ### A placed instruction (R92) -/

/-- Making the block ready writes MAIN and XSTATE only. -/
theorem readyFor_eq (i : Instr) (s : State) :
    readyFor i s = { s with main := (readyFor i s).main, xstate := (readyFor i s).xstate } := by
  cases i <;> rfl

section
variable (i : Instr) (s : State)

@[simp] theorem readyFor_cfg : (readyFor i s).cfg = s.cfg := by rw [readyFor_eq]

@[simp] theorem readyFor_fault : (readyFor i s).fault = s.fault := by rw [readyFor_eq]

@[simp] theorem readyFor_agenda : (readyFor i s).agenda = s.agenda := by rw [readyFor_eq]

end

theorem readyFor_main_of_command {i : Instr} (s : State) (h : i.isCommand = true) : (readyFor i s).main = .idle := by
  cases i with
  | init | setPixel | getPixel | showFrame | clear => rfl
  | pxWrite | pxRead | encWrite | xferStop | xferStart | xferEmit => cases h

/-- The block made ready for a micro-step of MAIN has a command in progress. -/
theorem readyFor_main_of_micro {i : Instr} (s : State) (h : i.isCommand ≠ true) :
    i = .xferEmit ∨ (readyFor i s).main ≠ .idle := by
  cases i with
  | init | setPixel | getPixel | showFrame | clear => exact absurd rfl h
  | xferEmit => exact .inl rfl
  | pxWrite | pxRead | encWrite | xferStop | xferStart => exact .inr (by simp [readyFor])

theorem turnOf_encode (i : Instr) :
    turnOf (encode i) = if i.isCommand = true then .issue .main (encode i) else .micro (encode i) := by
  split
  · next h => simp only [turnOf, findRow_microRows_of_command h]
  · next h => simp only [turnOf, findRow_microRows_of_micro h]

/-- The state in which the word of an instruction is placed. -/
theorem withFetchWord_encode {i : Instr} (s : State) (hwf : i.wellFormed = true) :
    s.withFetchWord 64 (encode i).toNat = { readyFor i s with agenda := turnOf (encode i) :: s.agenda } := by
  simp [State.withFetchWord, placeWord, decode_encode hwf]

/-- Once the placed turn is taken off the agenda, the agenda is as it was. -/
theorem readyFor_agenda_restored (i : Instr) (s : State) : { readyFor i s with agenda := s.agenda } = readyFor i s := by
  rw [← readyFor_agenda i s]

theorem step_placed {i : Instr} {s : State} (hlive : Live s) (hwf : i.wellFormed = true) :
    step (s.withFetchWord 64 (encode i).toNat) =
      exec i (if i.isCommand then { readyFor i s with portCtx := .main } else readyFor i s) := by
  have hplaced : Live { readyFor i s with agenda := turnOf (encode i) :: s.agenda } := by simpa [Live] using hlive
  rw [withFetchWord_encode s hwf]
  by_cases h : i.isCommand = true
  · rw [step_issue hplaced (by rw [turnOf_encode, if_pos h]), readyFor_agenda_restored, issueWord, decodePort_encode h,
      if_pos h]
    rfl
  · rw [step_micro hplaced (by rw [turnOf_encode, if_neg h]), readyFor_agenda_restored,
      takeMicro_ok _ (decodeMicro_encode h hwf), if_pos (readyFor_main_of_micro s h), if_neg h]

/-- Settles O9: the placed word is read back as its instruction, and the rest is the frame of `readyFor`. -/
theorem stepRunsThePlacedInstruction : Obligations.StepRunsThePlacedInstruction := by
  intro s i hlive hwf
  refine ⟨step_placed hlive hwf, readyFor_main_of_command s, ?_⟩
  rw [readyFor_eq]
  simp [SameBuffers, SameFlags, SameFault, SameLogs, SameModel]

/-! ### The block by itself (R84, R85) -/

/-- A micro-step is chosen whenever one is enabled, and it is an enabled one. -/
theorem freeMicro_mem {s : State} (h : enabledMicros s ≠ []) : ∃ i ∈ enabledMicros s, freeMicro s = some i := by
  unfold freeMicro
  split
  · next hnone => exact absurd hnone h
  · next i hone => exact ⟨i, by simp [hone], rfl⟩
  · next i is _ hmany =>
    have hlt : Config.freeTurn s.draws % (is.length + 1) < (i :: is).length := Nat.mod_lt _ (Nat.succ_pos _)
    refine ⟨_, ?_, rfl⟩
    rw [hmany, List.getD_eq_getElem _ _ hlt]
    exact List.getElem_mem hlt

theorem afterPick_cases (s : State) : afterPick s = s ∨ afterPick s = { s with draws := s.draws + 1 } := by
  unfold afterPick
  split
  · exact .inl rfl
  · exact .inl rfl
  · exact .inr rfl

/-- Settles O10: the free choice is of an enabled micro-step, and costs at most a free value. -/
theorem freeRunTakesAnEnabledMicroStep : Obligations.FreeRunTakesAnEnabledMicroStep := by
  intro s hlive hagenda henabled
  obtain ⟨i, hi, hpick⟩ := freeMicro_mem henabled
  have hstep : step s = exec i (afterPick s) := by simp only [step_free hlive hagenda, freeRun, hpick]
  refine ⟨i, hi, ?_⟩
  rw [hstep]
  exact (afterPick_cases s).imp (congrArg _) (congrArg _)

end Sys2Proof.Machine
end

section
/-! The tables of 30_encoding.md R104, R105 and R107: a word that spells a row is the word of the instruction built from it,
so that the decoders read exactly the words of the instructions, and an ILLEGAL word at the port is recorded (R106). -/

namespace Sys2Proof

/-! ### A word that spells a row (R104, R107) -/

@[simp] theorem bit_ofBit (b : BitVec 1) : (Buf.ofBit b).bit = b := by revert b; decide

/-- A field the mask covers holds the row's fixed bits. -/
theorem field_of_hits {r : Row} {w : Word} {start len : Nat} {v : BitVec len} (h : r.hits w = true)
    (hmask : r.mask.extractLsb' start len = BitVec.allOnes len) (hpattern : r.pattern.extractLsb' start len = v) :
    w.extractLsb' start len = v := by
  rw [← hpattern, ← eq_of_beq h, BitVec.extractLsb'_and, hmask, BitVec.and_allOnes]

/-- Two neighbouring fields of a word, the lower one of `n` bits, laid side by side. -/
theorem fields_append {w : Word} {start m : Nat} (n : Nat) {hi : BitVec m} {lo : BitVec n}
    (hhi : w.extractLsb' (start + n) m = hi) (hlo : w.extractLsb' start n = lo) :
    w.extractLsb' start (m + n) = hi ++ lo := by
  rw [← hhi, ← hlo, BitVec.extractLsb'_append_extractLsb'_eq_extractLsb' rfl]

theorem bufBit_eq (w : Word) : w.extractLsb' 48 1 = (fieldBuf w).bit := (bit_ofBit _).symm

/-- A word that spells a row holds the row's fixed bits and the operands, each in its place, and nothing else. -/
theorem encode_build {r : Row} {w : Word} (h : r.hits w = true) : encode (r.build w) = w := by
  refine Eq.trans (Eq.symm ?_) BitVec.extractLsb'_eq_self
  cases r with
  | init | showFrame | clear | xferStop | xferEmit => exact field_of_hits h (by decide) rfl
  | setPixel =>
    have hop : w.extractLsb' 48 16 = 0x02#8 ++ 0#8 := field_of_hits h (by decide) (by decide)
    have hrsv : w.extractLsb' 24 8 = 0#8 := field_of_hits h (by decide) (by decide)
    have hred : w.extractLsb' 16 48 = 0x02#8 ++ 0#8 ++ fieldIndex w ++ 0#8 ++ fieldR w :=
      fields_append 8 (fields_append 8 (fields_append 16 hop rfl) hrsv) rfl
    exact fields_append 8 (fields_append 8 hred rfl) rfl
  | getPixel =>
    have hop : w.extractLsb' 48 16 = 0x03#8 ++ 0#8 := field_of_hits h (by decide) (by decide)
    have hrsv : w.extractLsb' 0 32 = 0#32 := field_of_hits h (by decide) (by decide)
    exact fields_append 32 (fields_append 16 hop rfl) hrsv
  | pxWrite =>
    have hop : w.extractLsb' 48 16 = 0x80#8 ++ 0#8 := field_of_hits h (by decide) (by decide)
    have hrsv : w.extractLsb' 26 6 = 0#6 := field_of_hits h (by decide) (by decide)
    have hrsv' : w.extractLsb' 8 16 = 0#16 := field_of_hits h (by decide) (by decide)
    have hch : w.extractLsb' 24 40 = 0x80#8 ++ 0#8 ++ fieldIndex w ++ 0#6 ++ fieldCh w :=
      fields_append 2 (fields_append 6 (fields_append 16 hop rfl) hrsv) rfl
    exact fields_append 8 (fields_append 16 hch hrsv') rfl
  | pxRead =>
    have hop : w.extractLsb' 48 16 = 0x81#8 ++ 0#8 := field_of_hits h (by decide) (by decide)
    have hrsv : w.extractLsb' 26 6 = 0#6 := field_of_hits h (by decide) (by decide)
    have hrsv' : w.extractLsb' 0 24 = 0#24 := field_of_hits h (by decide) (by decide)
    exact fields_append 24 (fields_append 2 (fields_append 6 (fields_append 16 hop rfl) hrsv) rfl) hrsv'
  | encWrite =>
    have hop : w.extractLsb' 49 15 = 0x82#8 ++ 0#7 := field_of_hits h (by decide) (by decide)
    have hrsv : w.extractLsb' 0 24 = 0#24 := field_of_hits h (by decide) (by decide)
    exact fields_append 24 (fields_append 24 (fields_append 1 hop (bufBit_eq w)) rfl) hrsv
  | xferStart =>
    have hop : w.extractLsb' 49 15 = 0x84#8 ++ 0#7 := field_of_hits h (by decide) (by decide)
    have hrsv : w.extractLsb' 0 48 = 0#48 := field_of_hits h (by decide) (by decide)
    exact fields_append 48 (fields_append 1 hop (bufBit_eq w)) hrsv

/-! ### What the decoders read (R105, R106, R107) -/

theorem hits_of_findRow {rows : List Row} {r : Row} {w : Word} (h : findRow rows w = some r) : r.hits w = true :=
  List.find?_some (p := (Row.hits · w)) h

theorem decodePort_of_hits {r : Row} {w : Word} (hr : r ∈ cmdRows) (h : r.hits w = true) :
    decodePort w = some (r.build w) := by
  rw [decodePort, findRow_of_mem h hr, Option.map_some]

theorem decodePort_of_no_hits {w : Word} (h : ∀ r ∈ cmdRows, r.hits w = false) : decodePort w = none := by
  rw [decodePort, findRow, List.find?_eq_none.mpr fun r hr => Bool.eq_false_iff.mp (h r hr), Option.map_none]

/-- The port reads a word as the instruction whose word it is. -/
theorem encode_of_decodePort {w : Word} {i : Instr} (h : decodePort w = some i) : encode i = w := by
  obtain ⟨r, hfind, rfl⟩ := Option.map_eq_some_iff.mp h
  exact encode_build (hits_of_findRow hfind)

/-- A MICRO word is read as the well-formed instruction whose word it is. -/
theorem encode_of_decodeMicro {w : Word} {i : Instr} (h : decodeMicro w = .ok i) :
    i.wellFormed = true ∧ encode i = w := by
  unfold decodeMicro at h
  split at h
  · cases h
  · next r hfind =>
    split at h
    · next hwf =>
      cases h
      exact ⟨hwf, encode_build (hits_of_findRow hfind)⟩
    · cases h

/-! ### The statements -/

/-- Settles O1: the word of an instruction spells its own row alone, and the row's fields are the operands. -/
theorem decodeInvertsEncode : Obligations.DecodeInvertsEncode := fun _ hwf => decode_encode hwf

/-- Settles O2: a word that spells a command's row is that command's word, and a command's word is read back. -/
theorem portReadsExactlyTheCommandWords : Obligations.PortReadsExactlyTheCommandWords := by
  intro w i
  constructor
  · exact fun h => ⟨Machine.decodePort_isCommand h, encode_of_decodePort h⟩
  · rintro ⟨hcommand, rfl⟩
    exact decodePort_encode hcommand

/-- Settles O3: a word that spells a micro-step's row is that micro-step's word, and the word of a well-formed one is read
back. -/
theorem microWordsNameExactlyTheMicroSteps : Obligations.MicroWordsNameExactlyTheMicroSteps := by
  intro w i
  constructor
  · exact fun h => ⟨Bool.eq_false_iff.mpr (decodeMicro_not_command h), encode_of_decodeMicro h⟩
  · rintro ⟨hmicro, hwf, rfl⟩
    exact decodeMicro_encode (Bool.eq_false_iff.mp hmicro) hwf

/-- Settles O4: every mask covers the OP byte, and the rows differ in it. -/
theorem atMostOneRowMatches : Obligations.AtMostOneRowMatches := fun _ _ _ hp hq => hits_unique hp hq

/-- Settles O5: a match and mask pair of R104 is the hit of its row, whose fields the decoder assembles. -/
theorem portDecodesByTheTable : Obligations.PortDecodesByTheTable := by
  intro w
  have hread (r : Row) (hr : r ∈ cmdRows) (h : w &&& r.mask = r.pattern) : decodePort w = some (r.build w) :=
    decodePort_of_hits hr (beq_iff_eq.mpr h)
  exact ⟨hread .init (by decide), hread .setPixel (by decide), hread .getPixel (by decide), hread .showFrame (by decide),
    hread .clear (by decide), decodePort_of_no_hits, fun _ _ _ _ hp hq => hits_unique hp hq⟩

/-- Settles O6: the decoders run on the words of 95_test_vectors.md. -/
theorem specWordsDecode : Obligations.SpecWordsDecode := by
  unfold Obligations.SpecWordsDecode
  decide

end Sys2Proof

namespace Sys2Proof.Machine

/-! ### An ILLEGAL word at the port (R106) -/

/-- An ILLEGAL word of a context that may issue one is recorded (60_exceptions.md R271, R272). -/
theorem illegalWord_of_may_issue {ctx : Ctx} {s : State} (w : Word) (h : ctx = .main → s.main = .idle) :
    illegalWord w ctx s = .next (raiseFault .illegalCommand w ctx s) := by
  cases ctx with
  | main => simp only [illegalWord, h rfl]
  | irq => rfl

/-- Settles O14: the word at the port is ILLEGAL, and its context may issue one. -/
theorem illegalWordIsRecorded : Obligations.IllegalWordIsRecorded := by
  intro s ctx w rest hlive hagenda hdecode hissue
  simp only [step_issue hlive hagenda, issueWord, hdecode]
  rw [illegalWord_of_may_issue w (s := atPort ctx { s with agenda := rest }) hissue]
  rfl

end Sys2Proof.Machine
end

section
/-! The Pixel Store (40_pixel_store.md R140 to R153): SET_PIXEL and GET_PIXEL in both contexts, their byte steps, and the
read-back of a pixel just set. -/

namespace Sys2Proof.Machine

/-! ### The frame of the Pixel Store commands -/

/-- A state that differs in the Pixel Store, MAIN and OUT only. -/
theorem pixelFrame_update (s : State) (px : List Host.Cell) (main : MainRec) (out : List (Ctx × Resp)) :
    PixelFrame s { s with px := px, main := main, out := out } :=
  ⟨⟨rfl, rfl⟩, ⟨rfl, rfl, rfl, rfl, rfl⟩, ⟨rfl, rfl, rfl⟩, ⟨rfl, rfl, rfl, rfl⟩, rfl, ⟨rfl, rfl, rfl⟩, rfl⟩

theorem pixelFrame_iff {s t : State} :
    PixelFrame s t ↔ t = { s with px := t.px, main := t.main, out := t.out } := by
  constructor
  · cases s
    cases t
    simp +contextual
  · intro h
    rw [h]
    exact pixelFrame_update ..

theorem pixelFrame_trans {s t u : State} (hst : PixelFrame s t) (htu : PixelFrame t u) : PixelFrame s u := by
  rw [pixelFrame_iff] at *
  rw [htu, hst]

theorem pixelFrame_cfg {s t : State} (h : PixelFrame s t) : t.cfg = s.cfg := by rw [pixelFrame_iff.mp h]

/-- MAIN may issue its next command when one of these commands has ended. -/
theorem atMain_of_pixelFrame {s t : State} (h : PixelFrame s t) (hs : AtMain s) (hidle : t.main = .idle) : AtMain t := by
  obtain ⟨hlive, hport, -⟩ := hs
  rw [pixelFrame_iff.mp h] at hidle ⊢
  exact ⟨hlive, hport, hidle⟩

@[simp] theorem pxRead_setMain (m : MainRec) (s : State) (i : Nat) (c : Chan) :
    pxRead (setMain m s) i c = pxRead s i c := rfl

/-! ### Whole pixels -/

theorem pxRead_pxWrite (s : State) (i j : Nat) (c d : Chan) (v : Byte) (h : cellsWf s.px = true) :
    pxRead (pxWrite s i c v) j d = if (j, d) = (i, c) then v else pxRead s j d := by
  split
  · next he => cases he; exact pxRead_pxWrite_same s i c v h
  · next he => exact pxRead_pxWrite_other s v he

/-- Writing a pixel gives each of its channels that channel's byte. -/
theorem pxRead_writePixel (s : State) (i j : Nat) (d : Chan) (r g b : Byte) (h : cellsWf s.px = true) :
    pxRead (writePixel s i r g b) j d = if j = i then chanByte g r b d else pxRead s j d := by
  have hg : cellsWf (pxWrite s i .g g).px = true := cellsWf_write _ _ h
  have hr : cellsWf (pxWrite (pxWrite s i .g g) i .r r).px = true := cellsWf_write _ _ hg
  rw [writePixel, pxRead_pxWrite _ _ _ _ _ _ hr, pxRead_pxWrite _ _ _ _ _ _ hg, pxRead_pxWrite _ _ _ _ _ _ h]
  cases d <;> simp [chanByte]

/-! ### The commands, in range and out of range -/

theorem hasPixel_eq_false {c : Config} {i : Nat} (h : c.ledCount ≤ i) : hasPixel c i = false := by
  simpa [hasPixel] using h

section
variable {s : State} {index : BitVec 16} {r g b : Byte}

theorem beginSetPixel_inRange (h : index.toNat < s.cfg.ledCount) :
    beginSetPixel index r g b s = setMain (.busy (encode (.setPixel index r g b)) (.setp index g r b allChans)) s :=
  if_pos (hasPixel_iff.mpr h)

theorem beginSetPixel_outOfRange (h : s.cfg.ledCount ≤ index.toNat) : beginSetPixel index r g b s = s := by
  simp [beginSetPixel, hasPixel_eq_false h]

theorem irqSetPixel_inRange (h : index.toNat < s.cfg.ledCount) :
    irqSetPixel index r g b s = writePixel s index.toNat r g b := if_pos (hasPixel_iff.mpr h)

theorem irqSetPixel_outOfRange (h : s.cfg.ledCount ≤ index.toNat) : irqSetPixel index r g b s = s := by
  simp [irqSetPixel, hasPixel_eq_false h]

theorem beginGetPixel_inRange (h : index.toNat < s.cfg.ledCount) :
    beginGetPixel index s = setMain (.busy (encode (.getPixel index)) (.getp index gotNothing allChans)) s :=
  if_pos (hasPixel_iff.mpr h)

theorem beginGetPixel_outOfRange (h : s.cfg.ledCount ≤ index.toNat) :
    beginGetPixel index s = respond .main respInvalid s := by
  simp [beginGetPixel, hasPixel_eq_false h]

theorem irqGetPixel_inRange (h : index.toNat < s.cfg.ledCount) :
    irqGetPixel index s = respond .irq
      (respPixel (pxRead s index.toNat .r) (pxRead s index.toNat .g) (pxRead s index.toNat .b)) s :=
  if_pos (hasPixel_iff.mpr h)

theorem irqGetPixel_outOfRange (h : s.cfg.ledCount ≤ index.toNat) :
    irqGetPixel index s = respond .irq respInvalid s := by
  simp [irqGetPixel, hasPixel_eq_false h]

/-- A context that may issue a command: IRQ always, MAIN when it is IDLE (60_exceptions.md R271, R272). -/
theorem atMain_or_atIrq (hlive : Live s) (h : s.portCtx = .irq ∨ s.main = .idle) : AtMain s ∨ AtIrq s := by
  cases hport : s.portCtx with
  | irq => exact .inr ⟨hlive, hport⟩
  | main => exact .inl ⟨hlive, hport, h.resolve_left (by simp [hport])⟩

end

/-- Settles O21: no check applies, and an index in range begins the command. -/
theorem pixelCommandsAreAccepted : Obligations.PixelCommandsAreAccepted := by
  intro s index hmain hindex
  refine ⟨fun hinited r g b => ?_, ?_⟩
  · rw [exec_setPixel_main index r g b hmain hinited, beginSetPixel_inRange hindex]
    rfl
  · rw [exec_getPixel_main index hmain, beginGetPixel_inRange hindex]
    rfl

/-- Settles O22: in either context the command is accepted, and its effect is behind the range check. -/
theorem outOfRangeSetPixelDoesNothing : Obligations.OutOfRangeSetPixelDoesNothing := by
  intro s index r g b hlive hinited hindex hissue
  obtain hmain | hirq := atMain_or_atIrq hlive hissue
  · rw [exec_setPixel_main index r g b hmain hinited, beginSetPixel_outOfRange hindex]
  · rw [exec_setPixel_irq index r g b hirq hinited, irqSetPixel_outOfRange hindex]

/-- Settles O23: in either context the response is the invalid one, to that context. -/
theorem outOfRangeGetPixelRespondsInvalid : Obligations.OutOfRangeGetPixelRespondsInvalid := by
  intro s index hlive hindex hissue
  change exec (.getPixel index) s = .next (respond s.portCtx respInvalid s)
  obtain hmain | hirq := atMain_or_atIrq hlive hissue
  · have hport : s.portCtx = .main := hmain.2.1
    rw [exec_getPixel_main index hmain, beginGetPixel_outOfRange hindex, hport]
  · have hport : s.portCtx = .irq := hirq.2
    rw [exec_getPixel_irq index hirq, irqGetPixel_outOfRange hindex, hport]

/-- Settles O24: the whole pixel is written at once, each channel with its own byte. -/
theorem interruptSetPixelWritesOnePixel : Obligations.InterruptSetPixelWritesOnePixel := by
  intro s index r g b hirq hinited hindex hwf
  have hread (j : Nat) (d : Chan) := pxRead_writePixel s index.toNat j d r g b hwf
  refine ⟨writePixel s index.toNat r g b, ?_, ?_, ?_, ?_, ?_, rfl, rfl, pixelFrame_update ..⟩
  · rw [exec_setPixel_irq index r g b hirq hinited, irqSetPixel_inRange hindex]
  · rw [hread, if_pos rfl, chanByte]
  · rw [hread, if_pos rfl, chanByte]
  · rw [hread, if_pos rfl, chanByte]
  · intro j c hj
    rw [hread, if_neg hj]

/-! ### The response word (30_encoding.md R102) -/

theorem respPixel_eq (r g b : Byte) : respPixel r g b = 1#8 ++ r ++ g ++ b := rfl

section
variable (r g b : Byte)

theorem respPixel_b : (respPixel r g b).extractLsb' 0 8 = b := BitVec.extractLsb'_append_eq_right

theorem respPixel_above_b (start len : Nat) :
    (respPixel r g b).extractLsb' (start + 8) len = (1#8 ++ r ++ g).extractLsb' start len :=
  BitVec.extractLsb'_append_eq_of_le (Nat.le_add_left 8 start)

theorem respPixel_g : (respPixel r g b).extractLsb' 8 8 = g :=
  (respPixel_above_b r g b 0 8).trans BitVec.extractLsb'_append_eq_right

theorem respPixel_above_g (start len : Nat) :
    (respPixel r g b).extractLsb' (start + 16) len = (1#8 ++ r).extractLsb' start len :=
  (respPixel_above_b r g b (start + 8) len).trans (BitVec.extractLsb'_append_eq_of_le (Nat.le_add_left 8 start))

theorem respPixel_r : (respPixel r g b).extractLsb' 16 8 = r :=
  (respPixel_above_g r g b 0 8).trans BitVec.extractLsb'_append_eq_right

theorem respPixel_above_r (start len : Nat) :
    (respPixel r g b).extractLsb' (start + 24) len = (1#8).extractLsb' start len :=
  (respPixel_above_g r g b (start + 8) len).trans (BitVec.extractLsb'_append_eq_of_le (Nat.le_add_left 8 start))

end

/-- Settles O25: the response is the stored pixel, laid out as R102 lays RESP. -/
theorem interruptGetPixelResponds : Obligations.InterruptGetPixelResponds := by
  intro s index hirq hindex
  refine ⟨_, ?_, respPixel_above_r _ _ _ 1 7, respPixel_above_r _ _ _ 0 1, respPixel_r .., respPixel_g .., respPixel_b ..⟩
  rw [exec_getPixel_irq index hirq, irqGetPixel_inRange hindex]
  rfl

/-! ### One byte step -/

section
variable {word : Word} {index : BitVec 16} {g r b : Byte} {pend : List Chan}

theorem afterSetp_nil : afterSetp word index g r b [] = .idle := rfl

theorem afterSetp_of_ne_nil (h : pend ≠ []) : afterSetp word index g r b pend = .busy word (.setp index g r b pend) :=
  if_neg h

end

/-- Something is left when the element removed was not the only one. -/
theorem without_ne_nil {α : Type} [DecidableEq α] {l : List α} {x : α} (h : ∃ y ∈ l, y ≠ x) : without l x ≠ [] := by
  obtain ⟨y, hy, hne⟩ := h
  exact List.ne_nil_of_mem (mem_without.mpr ⟨hy, hne⟩)

/-- Settles O28: PxWrite changes the byte it is given and no other. -/
theorem barePixelWrite : Obligations.BarePixelWrite := by
  intro s index c v hlive hwf hmain hindex
  exact ⟨_, exec_pxWrite_bare c v hlive hindex hmain, pxRead_pxWrite_same s _ c v hwf,
    fun j d hne => pxRead_pxWrite_other s v hne, hmain, rfl, pixelFrame_update ..⟩

/-- Settles O26: the byte step is PxWrite, and MAIN moves on by what is left pending. -/
theorem pixelWriteOfSetPixel : Obligations.PixelWriteOfSetPixel := by
  intro s word index g r b pend c hlive hwf hindex hmain hc
  refine ⟨_, exec_pxWrite_setp hlive hindex hmain hc, pxRead_pxWrite_same s _ c _ hwf,
    fun j d hne => pxRead_pxWrite_other s _ hne, fun hlast => ?last, fun hmore => ?more, rfl, pixelFrame_update ..⟩
  case last => rw [setMain_main, without_nil.mpr hlast, afterSetp_nil]
  case more => exact afterSetp_of_ne_nil (without_ne_nil hmore)

section
variable {s : State} {word : Word} {index : BitVec 16} {got : Got}

theorem afterGetp_of_ne_nil {pend : List Chan} (h : pend ≠ []) :
    afterGetp s word index got pend = .next (setMain (.busy word (.getp index got pend)) s) := if_neg h

theorem afterGetp_nil {w : Resp} (h : respGot got = some w) :
    afterGetp s word index got [] = .next (setMain .idle (respond .main w s)) := by
  simp [afterGetp, h]

end

/-- Settles O29: the byte is recorded, and MAIN moves on or responds by what is left pending. -/
theorem pixelReadRecordsAndResponds : Obligations.PixelReadRecordsAndResponds := by
  intro s word index got pend c hlive hindex hmain hc
  rw [exec_pxRead hlive hindex hmain hc]
  refine ⟨fun hmore => ?more, fun g r b hlast hgot => ?last⟩
  case more => exact afterGetp_of_ne_nil (without_ne_nil hmore)
  case last =>
    rw [without_nil.mpr hlast, hgot, afterGetp_nil (w := respPixel r g b) rfl, respPixel_eq]
    rfl

/-! ### The byte steps of a command, in any order (R141, R151) -/

/-- Once a step of `order` is taken, the rest of `order` is what is left pending. -/
theorem mem_rest_iff {c : Chan} {order pend : List Chan} (hfresh : c ∉ order) (hsame : ∀ d, d ∈ c :: order ↔ d ∈ pend)
    (d : Chan) : d ∈ order ↔ d ∈ without pend c := by
  rw [mem_without, ← hsame, List.mem_cons]
  constructor
  · exact fun hd => ⟨.inr hd, fun he => hfresh (he ▸ hd)⟩
  · exact fun ⟨hd, hne⟩ => hd.resolve_left hne

/-- The PX_WRITEs of the pending channels, in any order, write those channels and end the SET_PIXEL. With no channel
pending MAIN is IDLE already. -/
theorem execAll_setPixelMicros {word : Word} {index : BitVec 16} {g r b : Byte} {order pend : List Chan} {s : State}
    (hlive : Live s) (hwf : cellsWf s.px = true) (hindex : index.toNat < s.cfg.ledCount) (hnodup : order.Nodup)
    (hsame : ∀ d, d ∈ order ↔ d ∈ pend) (hmain : s.main = afterSetp word index g r b pend) :
    ∃ t, execAll (setPixelMicros index r g b order) s = .next t ∧ t.main = .idle ∧ t.out = s.out ∧ PixelFrame s t ∧
      ∀ j d, pxRead t j d = if j = index.toNat ∧ d ∈ order then chanByte g r b d else pxRead s j d := by
  induction order generalizing s pend with
  | nil =>
    have hnone : pend = [] := List.eq_nil_iff_forall_not_mem.mpr fun d hd => List.not_mem_nil ((hsame d).mpr hd)
    rw [hnone, afterSetp_nil] at hmain
    exact ⟨s, rfl, hmain, rfl, pixelFrame_update .., by simp⟩
  | cons c order ih =>
    obtain ⟨hfresh, hnodup⟩ := List.nodup_cons.mp hnodup
    have hc : c ∈ pend := (hsame c).mp List.mem_cons_self
    rw [afterSetp_of_ne_nil (List.ne_nil_of_mem hc)] at hmain
    have hstep := exec_pxWrite_setp hlive hindex hmain hc
    obtain ⟨t, hrun, hidle, hout, hframe, hread⟩ :=
      ih (s := setMain (afterSetp word index g r b (without pend c)) (pxWrite s index.toNat c (chanByte g r b c)))
        hlive (cellsWf_write _ _ hwf) hindex hnodup (mem_rest_iff hfresh hsame) rfl
    refine ⟨t, (execAll_cons hstep).trans hrun, hidle, hout, pixelFrame_trans (pixelFrame_update ..) hframe, fun j d => ?_⟩
    rw [hread, pxRead_setMain, pxRead_pxWrite s _ _ _ _ _ hwf]
    by_cases hd : d = c <;> by_cases hj : j = index.toNat <;> simp [hd, hj]

/-- What `got` holds for a channel. -/
def gotByte (got : Got) : Chan → Option Byte
  | .g => got.g
  | .r => got.r
  | .b => got.b

theorem gotByte_gotSet (got : Got) (c d : Chan) (v : Byte) :
    gotByte (gotSet got c v) d = if d = c then some v else gotByte got d := by
  cases c <;> cases d <;> rfl

theorem respGot_of_gotByte {got : Got} {f : Chan → Byte} (h : ∀ d, gotByte got d = some (f d)) :
    respGot got = some (respPixel (f .r) (f .g) (f .b)) := by
  have hr : got.r = some (f .r) := h .r
  have hg : got.g = some (f .g) := h .g
  have hb : got.b = some (f .b) := h .b
  simp [respGot, hr, hg, hb]

/-- The PX_READs of the pending channels, in any order, end the GET_PIXEL with the stored pixel as the response, when the
channels read before them are recorded as they are stored. -/
theorem execAll_getPixelMicros {word : Word} {index : BitVec 16} {got : Got} {order pend : List Chan} {s : State}
    (hlive : Live s) (hindex : index.toNat < s.cfg.ledCount) (hnodup : order.Nodup) (hsome : pend ≠ [])
    (hsame : ∀ d, d ∈ order ↔ d ∈ pend) (hmain : s.main = .busy word (.getp index got pend))
    (hgot : ∀ d, d ∉ pend → gotByte got d = some (pxRead s index.toNat d)) :
    execAll (getPixelMicros index order) s = .next (setMain .idle (respond .main
      (respPixel (pxRead s index.toNat .r) (pxRead s index.toNat .g) (pxRead s index.toNat .b)) s)) := by
  induction order generalizing s got pend with
  | nil => exact absurd (List.eq_nil_iff_forall_not_mem.mpr fun d hd => List.not_mem_nil ((hsame d).mpr hd)) hsome
  | cons c order ih =>
    obtain ⟨hfresh, hnodup⟩ := List.nodup_cons.mp hnodup
    have hrest := mem_rest_iff hfresh hsame
    have hstep := exec_pxRead hlive hindex hmain ((hsame c).mp List.mem_cons_self)
    have hrecorded (d : Chan) (hd : d ∉ without pend c) :
        gotByte (gotSet got c (pxRead s index.toNat c)) d = some (pxRead s index.toNat d) := by
      rw [gotByte_gotSet]
      split
      · next he => rw [he]
      · next hne => exact hgot d fun hp => hd (mem_without.mpr ⟨hp, hne⟩)
    by_cases hlast : without pend c = []
    · simp only [hlast, List.not_mem_nil, iff_false, not_false_eq_true, forall_const] at hstep hrest hrecorded
      rw [afterGetp_nil (respGot_of_gotByte hrecorded)] at hstep
      rw [List.eq_nil_iff_forall_not_mem.mpr hrest]
      exact execAll_cons hstep
    · rw [afterGetp_of_ne_nil hlast] at hstep
      exact (execAll_cons hstep).trans (ih hlive hindex hnodup hlast hrest rfl hrecorded)

/-! ### A pixel read back (R153) -/

/-- An order of the three channels takes each of them once. -/
theorem perm_allChans {order : List Chan} (h : order.Perm allChans) : order.Nodup ∧ ∀ d, d ∈ order ↔ d ∈ allChans :=
  ⟨h.nodup_iff.mpr (by decide), fun _ => h.mem_iff⟩

/-- MAIN's SET_PIXEL as a whole: the pixel is written and MAIN is IDLE again (R140, R141). -/
theorem execAll_setPixel {s : State} {index : BitVec 16} {r g b : Byte} {order : List Chan} (hs : AtMain s)
    (hinited : s.inited = true) (hwf : cellsWf s.px = true) (hindex : index.toNat < s.cfg.ledCount)
    (horder : order.Perm allChans) :
    ∃ t, execAll (.setPixel index r g b :: setPixelMicros index r g b order) s = .next t ∧ t.main = .idle ∧
      t.out = s.out ∧ PixelFrame s t ∧
      ∀ j d, pxRead t j d = if j = index.toNat then chanByte g r b d else pxRead s j d := by
  obtain ⟨hnodup, hall⟩ := perm_allChans horder
  have haccept := exec_setPixel_main index r g b hs hinited
  rw [beginSetPixel_inRange hindex] at haccept
  obtain ⟨t, hrun, hidle, hout, hframe, hread⟩ :=
    execAll_setPixelMicros (s := setMain (.busy (encode (.setPixel index r g b)) (.setp index g r b allChans)) s)
      (pend := allChans) hs.1 hwf hindex hnodup hall rfl
  refine ⟨t, (execAll_cons haccept).trans hrun, hidle, hout, pixelFrame_trans (pixelFrame_update ..) hframe,
    fun j d => ?_⟩
  rw [hread, pxRead_setMain]
  simp [hall, mem_allChans]

/-- MAIN's GET_PIXEL as a whole: the stored pixel is the response and MAIN is IDLE again (R150, R151). -/
theorem execAll_getPixel {s : State} {index : BitVec 16} {order : List Chan} (hs : AtMain s)
    (hindex : index.toNat < s.cfg.ledCount) (horder : order.Perm allChans) :
    execAll (.getPixel index :: getPixelMicros index order) s = .next (setMain .idle (respond .main
      (respPixel (pxRead s index.toNat .r) (pxRead s index.toNat .g) (pxRead s index.toNat .b)) s)) := by
  obtain ⟨hnodup, hall⟩ := perm_allChans horder
  have haccept := exec_getPixel_main index hs
  rw [beginGetPixel_inRange hindex] at haccept
  refine (execAll_cons haccept).trans ?_
  exact execAll_getPixelMicros (s := setMain (.busy (encode (.getPixel index)) (.getp index gotNothing allChans)) s)
    hs.1 hindex hnodup (by decide) hall rfl (fun d hd => absurd (mem_allChans d) hd)

/-- Settles O42: the SET_PIXEL leaves its bytes in the store and MAIN IDLE, and the GET_PIXEL responds with the store. -/
theorem readBackYieldsTheValuesSet : Obligations.ReadBackYieldsTheValuesSet := by
  intro s index r g b writes reads hs hinited hwf hindex hwrites hreads
  obtain ⟨t, hset, hidle, hout, hframe, hread⟩ := execAll_setPixel (r := r) (g := g) (b := b) hs hinited hwf hindex hwrites
  have hget := execAll_getPixel (index := index) (atMain_of_pixelFrame hframe hs hidle)
    (by rwa [pixelFrame_cfg hframe]) hreads
  refine ⟨_, (execAll_append hset).trans hget, ?_, rfl, ?_, pixelFrame_trans hframe (pixelFrame_update ..)⟩
  · simp [hread, hout, chanByte, respPixel_eq]
  · intro j c hj
    exact (hread j c).trans (if_neg hj)

end Sys2Proof.Machine
end

section
/-! The waveform encoder (41_encoder.md R170 to R183): one ENC_WRITE, the encode phase as a whole, what other steps may do
to an encode in progress, and Dec; and the phase each micro-step runs in. -/

namespace Sys2Proof.Machine

/-! ### Enc, slot by slot (R180) -/

/-- A slot of Enc(PX) as a number (R170, R171). -/
theorem encSlot_toNat {s : State} (w : Nat) (h : legal s.cfg = true) :
    (encSlot s w).toNat =
      if w < dataSlots s.cfg then (if pixelBit s w then s.cfg.pwmOne else s.cfg.pwmZero) else 0 := by
  obtain ⟨-, -, -, hzero, hone⟩ := legal_codes h
  split
  · next hdata =>
    rw [encSlot_data hdata, bitCode]
    split
    · exact slotOf_toNat hone
    · exact slotOf_toNat hzero
  · next hreset => rw [encSlot_reset (Nat.not_lt.mp hreset)]; rfl

/-- Enc(PX) depends on the configuration and the Pixel Store only (R172). -/
theorem encSlot_congr {s t : State} (hc : t.cfg = s.cfg) (hp : t.px = s.px) (w : Nat) : encSlot t w = encSlot s w := by
  simp only [encSlot, pixelBit, hc, pxRead_congr hp]

/-! ### The frame of an encode -/

/-- Everything but the buffers and MAIN is unchanged. -/
abbrev EncodeFrame (s t : State) : Prop :=
  SamePixels s t ∧ SameEngine s t ∧ SameFlags s t ∧ SameFault s t ∧ SameLogs s t ∧ SameModel s t ∧ t.draws = s.draws

theorem encodeFrame_update (s : State) (tb0 tb1 : List (Nat × Slot)) (main : MainRec) :
    EncodeFrame s { s with tb0 := tb0, tb1 := tb1, main := main } :=
  ⟨rfl, ⟨rfl, rfl, rfl, rfl, rfl⟩, ⟨rfl, rfl, rfl⟩, ⟨rfl, rfl, rfl, rfl⟩, ⟨rfl, rfl⟩, ⟨rfl, rfl, rfl⟩, rfl⟩

theorem encodeFrame_iff {s t : State} :
    EncodeFrame s t ↔ t = { s with tb0 := t.tb0, tb1 := t.tb1, main := t.main } := by
  constructor
  · cases s
    cases t
    simp +contextual [SamePixels]
  · intro h
    rw [h]
    exact encodeFrame_update ..

theorem encodeFrame_trans {s t u : State} (hst : EncodeFrame s t) (htu : EncodeFrame t u) : EncodeFrame s u := by
  rw [encodeFrame_iff] at *
  rw [htu, hst]

/-! ### One ENC_WRITE (R170, R171, R174) -/

/-- Settles O30: ENC_WRITE is one TbWrite of a slot of Enc(PX), whose number a legal configuration fixes. -/
theorem encodeWriteWritesItsSlot : Obligations.EncodeWriteWritesItsSlot := by
  intro s word kind T slot hlive h0 h1 hmain hslot hbuffer
  refine ⟨_, exec_encWrite hlive hmain hslot hbuffer, ?written, ?others, rfl, encodeFrame_update ..⟩
  case written =>
    exact (congrArg BitVec.toNat (tbRead_tbWrite_same s T slot.toNat _ h0 h1)).trans (encSlot_toNat _ hlive.1)
  case others =>
    intro b x hne
    exact (tbRead_tbWrite s T b slot.toNat x _ h0 h1).trans (if_neg fun ⟨hb, hx⟩ => hne (by rw [hb, hx]))

/-! ### The written part of a buffer -/

/-- The slots of buffer T below w are those of Enc(PX). -/
abbrev EncodedBelow (s : State) (T : Buf) (w : Nat) : Prop := ∀ v < w, tbRead s T v = encSlot s v

theorem encodedBelow_of_same {s t : State} {T : Buf} {w : Nat} (hc : t.cfg = s.cfg) (hp : t.px = s.px)
    (hb : SameBuffers s t) (h : EncodedBelow s T w) : EncodedBelow t T w := by
  obtain ⟨h0, h1⟩ := hb
  intro v hv
  rw [tbRead_congr h0 h1, encSlot_congr hc hp, h v hv]

/-- An ENC_WRITE of the next slot extends the written part by it. -/
theorem encodedBelow_encWrite {s : State} {T : Buf} {w : Nat} (m : MainRec) (h0 : cellsWf s.tb0 = true)
    (h1 : cellsWf s.tb1 = true) (h : EncodedBelow s T w) :
    EncodedBelow (setMain m (tbWrite s T w (encSlot s w))) T (w + 1) := by
  intro v hv
  change tbRead (tbWrite s T w (encSlot s w)) T v = encSlot s v
  obtain hv | rfl := Nat.lt_succ_iff_lt_or_eq.mp hv
  · rw [tbRead_tbWrite_slot s T _ (Nat.ne_of_lt hv), h v hv]
  · exact tbRead_tbWrite_same s T v _ h0 h1

theorem buffersWf_tbWrite {s : State} (T : Buf) (w : Nat) (v : Slot) (h0 : cellsWf s.tb0 = true)
    (h1 : cellsWf s.tb1 = true) :
    cellsWf (tbWrite s T w v).tb0 = true ∧ cellsWf (tbWrite s T w v).tb1 = true := by
  cases T
  · exact ⟨cellsWf_write w v h0, h1⟩
  · exact ⟨h0, cellsWf_write w v h1⟩

theorem otherBuf_ne (T : Buf) : otherBuf T ≠ T := by cases T <;> decide

/-! ### The encode phase with no other step inside it (R180, R181) -/

/-- What a state t of an encode that began in s, of buffer T, has kept and done when w is the next slot. -/
structure EncodeReached (s : State) (T : Buf) (w : Nat) (t : State) : Prop where
  frame : EncodeFrame s t
  canonical : cellsWf t.tb0 = true ∧ cellsWf t.tb1 = true
  other : ∀ x, tbRead t (otherBuf T) x = tbRead s (otherBuf T) x
  below : EncodedBelow t T w

theorem encodeReached_encWrite {s t : State} {T : Buf} {w : Nat} (m : MainRec) (h : EncodeReached s T w t) :
    EncodeReached s T (w + 1) (setMain m (tbWrite t T w (encSlot t w))) where
  frame := encodeFrame_trans h.frame (encodeFrame_update ..)
  canonical := buffersWf_tbWrite T w _ h.canonical.1 h.canonical.2
  other x := (tbRead_tbWrite_buffer t w x _ (otherBuf_ne T)).trans (h.other x)
  below := encodedBelow_encWrite m h.canonical.1 h.canonical.2 h.below

/-- The first n ENC_WRITEs of an encode write the slots below n; after the last one MAIN is in the stop phase. -/
theorem execAll_encWrites {s : State} {word : Word} {kind : ShowKind} {T : Buf} {n : Nat} (hlive : Live s)
    (h0 : cellsWf s.tb0 = true) (h1 : cellsWf s.tb1 = true) (hmain : s.main = .busy word (.enc kind T 0))
    (hbuffer : T = .b0 ∨ s.cfg.doubleBuffer = true) (hn : n ≤ bufferSize s.cfg) :
    ∃ t, execAll ((List.range n).map fun w => .encWrite T (BitVec.ofNat 24 w)) s = .next t ∧ EncodeReached s T n t ∧
      t.main = if n = bufferSize s.cfg then .busy word (.stop kind T) else .busy word (.enc kind T n) := by
  have hbounds := legal_bounds hlive.1
  induction n with
  | zero =>
    refine ⟨s, rfl, ⟨encodeFrame_update .., ⟨h0, h1⟩, fun x => rfl, fun v hv => absurd hv (Nat.not_lt_zero v)⟩, ?_⟩
    rw [hmain, if_neg (by omega)]
  | succ n ih =>
    obtain ⟨t, hrun, hreached, hphase⟩ := ih (Nat.le_of_lt hn)
    have ht := encodeFrame_iff.mp hreached.frame
    have hcfg : t.cfg = s.cfg := by rw [ht]
    have hlive' : Live t := by rw [ht]; exact hlive
    have hfits : (BitVec.ofNat 24 n).toNat = n := by rw [BitVec.toNat_ofNat, Nat.mod_eq_of_lt (by omega)]
    rw [if_neg (Nat.ne_of_lt hn)] at hphase
    have hstep := exec_encWrite (slot := BitVec.ofNat 24 n) hlive' (by rw [hfits, hphase]) (by rwa [hfits, hcfg])
      (by rwa [hcfg])
    rw [hfits, hcfg] at hstep
    rw [List.range_succ, List.map_append, execAll_append hrun]
    exact ⟨_, execAll_cons hstep, encodeReached_encWrite _ hreached, rfl⟩

/-- Settles O31: by induction on the number of ENC_WRITEs, each of which extends the written part by its slot. -/
theorem encodePhaseComputesEnc : Obligations.EncodePhaseComputesEnc := by
  intro s word kind T hlive h0 h1 hmain hbuffer
  obtain ⟨t, hrun, hreached, hphase⟩ := execAll_encWrites hlive h0 h1 hmain hbuffer le_rfl
  have ht := encodeFrame_iff.mp hreached.frame
  refine ⟨t, hrun, fun w hw => ?_, hreached.other, hphase.trans (if_pos rfl), hreached.frame⟩
  rw [hreached.below w hw]
  exact encSlot_congr (by rw [ht]) (by rw [ht]) w

/-! ### The encode phase under any interleaving (R172, R180) -/

/-- While an encode is in progress an instruction is its next ENC_WRITE, or leaves MAIN and the buffers alone. -/
theorem effect_encoding {i : Instr} {s t : State} {word : Word} {kind : ShowKind} {T : Buf} {w : Nat}
    (h : Effect i s t) (hmain : s.main = .busy word (.enc kind T w)) :
    (t.main = s.main ∧ SameBuffers s t) ∨
      t = setMain (afterEnc s.cfg word kind T w) (tbWrite s T w (encSlot s w)) := by
  cases h with
  | irqFault | setPixelIrq | getPixelIrq | xferEmit => exact .inl (by simp [SameBuffers])
  | encWrite word' kind' T' slot main =>
    cases hmain.symm.trans main
    exact .inr rfl
  | mainFault _ _ _ main | init _ main | setPixelMain _ _ _ _ _ main | getPixelMain _ _ main | showFrame _ main
  | clear _ main | pxWriteBare _ _ _ _ _ _ main | pxWriteSetp _ _ _ _ _ _ _ _ _ _ _ main
  | pxWriteClr _ _ _ _ _ _ _ _ main | pxReadMore _ _ _ _ _ _ _ _ main | pxReadLast _ _ _ _ _ _ _ _ _ main
  | xferStop _ _ _ main | startFault _ _ _ main | xferStart _ _ _ main => cases hmain.symm.trans main

/-- A step that leaves MAIN, the configuration and the stores alone leaves the encode where it was; the ENC_WRITE extends
the written part, to the whole buffer when it is the last. -/
theorem effect_encodedBelow {i : Instr} {s t : State} {word : Word} {kind : ShowKind} {T : Buf} {w : Nat}
    (h : Effect i s t) (h0 : cellsWf s.tb0 = true) (h1 : cellsWf s.tb1 = true)
    (hmain : s.main = .busy word (.enc kind T w)) (hbelow : EncodedBelow s T w) (hp : t.px = s.px) :
    (∃ w', t.main = .busy word (.enc kind T w') ∧ EncodedBelow t T w') ∨
      (t.main = .busy word (.stop kind T) ∧ EncodedBelow t T (bufferSize t.cfg)) := by
  obtain ⟨hm, hb⟩ | rfl := effect_encoding h hmain
  · exact .inl ⟨w, hm.trans hmain, encodedBelow_of_same (effect_extends h).cfg hp hb hbelow⟩
  · have hnext := encodedBelow_encWrite (afterEnc s.cfg word kind T w) h0 h1 hbelow
    by_cases hlast : w + 1 = bufferSize s.cfg
    · exact .inr ⟨if_pos hlast, hlast ▸ hnext⟩
    · exact .inl ⟨w + 1, if_neg hlast, hnext⟩

/-- Settles O32: a wait and a recorded illegal word leave the encode alone, and every effect keeps what it has written. -/
theorem encodeInProgressAgreesWithStore : Obligations.EncodeInProgressAgreesWithStore := by
  intro s t word kind T w h0 h1 hmain hbelow h hp
  obtain ⟨-, rfl | ⟨u, w', ctx, ⟨a, p, d, rfl⟩, rfl⟩ | ⟨i, u, ⟨a, p, d, rfl⟩, he⟩⟩ := step_effect h
  · exact .inl ⟨w, hmain, hbelow⟩
  · exact .inl ⟨w, hmain, hbelow⟩
  · exact effect_encodedBelow he h0 h1 hmain hbelow hp

/-! ### Dec (R183) -/

/-- The codes of the two bits differ (00_scope.md R10), so that a bit is read back from its code. -/
theorem codeBit_bitCode {c : Config} (h : legal c = true) (bit : Bool) : codeBit c (bitCode c bit) = bit := by
  obtain ⟨-, hlt, -, hzero, hone⟩ := legal_codes h
  have hne : zeroCode c ≠ oneCode c := fun he => by
    have hnat := congrArg BitVec.toNat he
    rw [zeroCode, oneCode, slotOf_toNat hzero, slotOf_toNat hone] at hnat
    omega
  cases bit <;> simp [codeBit, bitCode, hne]

/-- A slot of Enc(PX), read as a bit, is the bit the slot-to-bit map gives it (00_scope.md R15). -/
theorem codeBit_encSlot {s : State} {j k : Nat} (h : legal s.cfg = true) (hj : j < 3 * s.cfg.ledCount) (hk : k < 8) :
    codeBit s.cfg (encSlot s (8 * j + k)) = (pxRead s (j / 3) (chanOfIndex (j % 3))).getLsbD (7 - k) := by
  have hdata : 8 * j + k < dataSlots s.cfg := by unfold dataSlots; omega
  have hpixel : (8 * j + k) / 24 = j / 3 := by omega
  have hchan : (8 * j + k) % 24 / 8 = j % 3 := by omega
  have hbit : (8 * j + k) % 8 = k := by omega
  rw [encSlot_data hdata, codeBit_bitCode h, pixelBit, slotPixel, slotChan, slotBit, hpixel, hchan, hbit]

/-- The binary digits of a number, the most significant first, add up to it. -/
theorem sum_testBit_shiftLeft (v n : Nat) :
    ((List.range (n + 1)).map fun k => (v.testBit (n - k)).toNat <<< (n - k)).sum = v % 2 ^ (n + 1) := by
  induction n with
  | zero => simp [-Nat.testBit_zero, Nat.toNat_testBit]
  | succ n ih =>
    rw [List.range_succ_eq_map, List.map_cons, List.sum_cons, List.map_map, Nat.mod_pow_succ, ← ih, Nat.add_comm,
      Nat.shiftLeft_eq, Nat.mul_comm, Nat.toNat_testBit]
    simp [Function.comp_def]

/-- A byte of a buffer that is Enc(PX) decodes to the stored byte. -/
theorem decByte_of_encoded {s : State} {b : Buf} {j : Nat} (h : legal s.cfg = true) (hj : j < 3 * s.cfg.ledCount)
    (henc : EncodedBelow s b (dataSlots s.cfg)) : decByte s b j = pxRead s (j / 3) (chanOfIndex (j % 3)) := by
  have hbits : ∀ k ∈ List.range 8, (codeBit s.cfg (tbRead s b (8 * j + k))).toNat <<< (7 - k) =
      ((pxRead s (j / 3) (chanOfIndex (j % 3))).toNat.testBit (7 - k)).toNat <<< (7 - k) := by
    intro k hk
    have hk : k < 8 := List.mem_range.mp hk
    rw [henc _ (by unfold dataSlots; omega), codeBit_encSlot h hj hk, BitVec.getLsbD]
  rw [decByte, List.map_congr_left hbits, sum_testBit_shiftLeft _ 7, Nat.mod_eq_of_lt (BitVec.isLt _), BitVec.ofNat_toNat,
    BitVec.setWidth_eq]

theorem dataSlotsCoded_iff {s : State} {b : Buf} :
    dataSlotsCoded s b = true ↔
      ∀ w < dataSlots s.cfg, tbRead s b w = zeroCode s.cfg ∨ tbRead s b w = oneCode s.cfg := by
  simp [dataSlotsCoded]

theorem dataSlotsCoded_of_encoded {s : State} {b : Buf} (henc : EncodedBelow s b (dataSlots s.cfg)) :
    dataSlotsCoded s b = true := by
  refine dataSlotsCoded_iff.mpr fun w hw => ?_
  rw [henc w hw, encSlot_data hw, bitCode]
  cases pixelBit s w
  · exact .inl rfl
  · exact .inr rfl

/-- Settles O33: the data slots of Enc(PX) are coded and decode byte by byte; one slot with another code is no code. -/
theorem decodeRecoversThePixels : Obligations.DecodeRecoversThePixels := by
  intro s b hlegal
  obtain ⟨-, -, -, -, hdata⟩ := legal_bounds hlegal
  refine ⟨fun hbuffer => ?encoded, fun ⟨w, hw, hzero, hone⟩ => ?other⟩
  case encoded =>
    have henc : EncodedBelow s b (dataSlots s.cfg) := fun w hw => hbuffer w (hw.trans hdata)
    rw [decBuffer, if_pos (dataSlotsCoded_of_encoded henc)]
    exact congrArg some (List.map_congr_left fun j hj => decByte_of_encoded hlegal (List.mem_range.mp hj) henc)
  case other =>
    exact if_neg fun hcoded => (dataSlotsCoded_iff.mp hcoded w hw).elim hzero hone

/-! ### The phase of a micro-step (R170, 40_pixel_store.md R141, R151, 42_transfer_controller.md R217, R225, R227, R230) -/

section
variable {s t : State}

theorem effect_pxWrite {index : BitVec 16} {ch : BitVec 2} {val : Byte} (h : Effect (.pxWrite index ch val) s t) :
    ∃ c, ch = chanBits c ∧ index.toNat < s.cfg.ledCount ∧
      (s.main = .idle ∨
        (∃ word g r b pend, s.main = .busy word (.setp index g r b pend) ∧ c ∈ pend ∧ val = chanByte g r b c) ∨
        (∃ word kind pend, s.main = .busy word (.clr kind pend) ∧ (index.toNat, c) ∈ pend ∧ val = 0)) := by
  cases h with
  | mainFault _ command | irqFault _ command => cases command
  | pxWriteBare _ _ _ c chan inRange main =>
    exact ⟨c, (chanBits_of_some chan).symm, hasPixel_iff.mp inRange, .inl main⟩
  | pxWriteSetp _ _ _ c word g r b pend chan inRange main mem byte =>
    exact ⟨c, (chanBits_of_some chan).symm, hasPixel_iff.mp inRange, .inr (.inl ⟨word, g, r, b, pend, main, mem, byte⟩)⟩
  | pxWriteClr _ _ c word kind pend chan inRange main mem =>
    exact ⟨c, (chanBits_of_some chan).symm, hasPixel_iff.mp inRange, .inr (.inr ⟨word, kind, pend, main, mem, rfl⟩)⟩

theorem effect_pxRead {index : BitVec 16} {ch : BitVec 2} (h : Effect (.pxRead index ch) s t) :
    ∃ c word got pend, ch = chanBits c ∧ index.toNat < s.cfg.ledCount ∧
      s.main = .busy word (.getp index got pend) ∧ c ∈ pend := by
  cases h with
  | mainFault _ command | irqFault _ command => cases command
  | pxReadMore _ _ c word got pend chan inRange main mem | pxReadLast _ _ c word got pend _ chan inRange main mem =>
    exact ⟨c, word, got, pend, (chanBits_of_some chan).symm, hasPixel_iff.mp inRange, main, mem⟩

theorem effect_encWrite {T : Buf} {slot : BitVec 24} (h : Effect (.encWrite T slot) s t) :
    (∃ word kind, s.main = .busy word (.enc kind T slot.toNat)) ∧ slot.toNat < bufferSize s.cfg := by
  cases h with
  | mainFault _ command | irqFault _ command => cases command
  | encWrite word kind _ _ main inRange => exact ⟨⟨word, kind, main⟩, inRange⟩

theorem effect_xferStop (h : Effect .xferStop s t) : ∃ word kind T, s.main = .busy word (.stop kind T) := by
  cases h with
  | mainFault _ command | irqFault _ command => cases command
  | xferStop word kind T main => exact ⟨word, kind, T, main⟩

theorem effect_xferStart {T : Buf} (h : Effect (.xferStart T) s t) :
    ∃ word kind, s.main = .busy word (.start kind T) := by
  cases h with
  | mainFault _ command | irqFault _ command => cases command
  | startFault word kind _ main | xferStart word kind _ main => exact ⟨word, kind, main⟩

theorem effect_xferEmit (h : Effect .xferEmit s t) : s.xstate = .running := by
  cases h with
  | mainFault _ command | irqFault _ command => cases command
  | xferEmit running => exact running

end

/-- Settles O45: the effects of each micro-step name its phase and its operands. -/
theorem microStepsRunOnlyInTheirPhase : Obligations.MicroStepsRunOnlyInTheirPhase := by
  intro s t
  have heffect : ∀ {i}, exec i s = .next t → Effect i s t := fun h => (exec_effect h).2
  exact ⟨fun _ _ _ h => effect_pxWrite (heffect h), fun _ _ h => effect_pxRead (heffect h),
    fun _ _ h => effect_encWrite (heffect h), fun h => effect_xferStop (heffect h),
    fun _ h => effect_xferStart (heffect h), fun h => effect_xferEmit (heffect h)⟩

end Sys2Proof.Machine
end

section
/-! The transfer controller and the engine (42_transfer_controller.md R210 to R235): the fault of a start and its absence,
stops, starts, emits and whole passes, a whole SHOW, and the zeroing phase. -/

namespace Sys2Proof.Machine

/-! ### START_WHILE_RUNNING (R227) -/

/-- No other fault has this number (60_exceptions.md R261). -/
theorem fcodeOf_eq_startWhileRunning {code : FaultCode} :
    fcodeOf code = fcodeOf .startWhileRunning ↔ code = .startWhileRunning := by
  cases code <;> decide

/-- No check of acceptance raises START_WHILE_RUNNING: it is a micro-step's fault. -/
theorem mainCheck_ne_startWhileRunning (i : Instr) (s : State) : mainCheck i s ≠ some .startWhileRunning := by
  cases i <;> simp [mainCheck]

theorem irqCheck_ne_startWhileRunning (i : Instr) (s : State) : irqCheck i s ≠ some .startWhileRunning := by
  cases i <;> simp [irqCheck]

theorem noStartFault_raiseFault {code : FaultCode} (w : Word) (ctx : Ctx) (s : State)
    (h : code ≠ .startWhileRunning) : NoStartFault (raiseFault code w ctx s) :=
  fun _ hcode => h (fcodeOf_eq_startWhileRunning.mp hcode)

theorem noStartFault_of_same {s t : State} (hc : t.cfg = s.cfg) (hf : t.fcode = s.fcode) (h : NoStartFault s) :
    NoStartFault t := by
  simpa only [NoStartFault, hc, hf] using h

/-- With stops that cannot fail, the start phase finds the engine STOPPED. -/
theorem stopped_of_start {s : State} {word : Word} {kind : ShowKind} {T : Buf} (hs : BlockInv s)
    (hmain : s.main = .busy word (.start kind T)) (hcertain : s.cfg.xferMayFail = false) : s.xstate = .stopped := by
  obtain ⟨-, -, -, hstopped⟩ := (mainOk_busy hmain).mp hs.mainRecord
  exact hstopped hcertain

theorem effect_noStartFault {i : Instr} {s t : State} (h : Effect i s t) (hb : BlockInv s) (hs : NoStartFault s) :
    NoStartFault t := by
  cases h with
  | mainFault code _ _ _ check =>
    exact noStartFault_raiseFault _ _ _ fun he => mainCheck_ne_startWhileRunning i s (he ▸ check)
  | irqFault code _ _ check =>
    exact noStartFault_raiseFault _ _ _ fun he => irqCheck_ne_startWhileRunning i s (he ▸ check)
  | startFault word kind T main running =>
    intro hcertain
    have hstopped := stopped_of_start hb main hcertain
    simp [running] at hstopped
  | _ => exact noStartFault_of_same (by simp) (by simp) hs

/-- Settles O53: under the block's invariant the one effect that raises START_WHILE_RUNNING needs a stop that failed. -/
theorem startFaultIsUnreachable : Obligations.StartFaultIsUnreachable := by
  intro s t hb hs h
  refine (step_keeps (P := fun s => BlockInv s ∧ NoStartFault s) ?reseat ?illegal ?effect h ⟨hb, hs⟩).2
  case reseat =>
    rintro s u hu ⟨hb, hs⟩
    refine ⟨blockInv_reseat hu hb, ?_⟩
    obtain ⟨a, p, d, rfl⟩ := hu
    exact hs
  case illegal =>
    rintro s w ctx ⟨hb, -⟩
    exact ⟨blockInv_raiseFault _ w ctx hb, noStartFault_raiseFault w ctx s (by decide)⟩
  case effect =>
    rintro i s t he ⟨hb, hs⟩
    exact ⟨effect_blockInv he hb, effect_noStartFault he hb hs⟩

/-- Settles O36: the fault is recorded with the word of the command in progress. -/
theorem startWhileRunningIsRecorded : Obligations.StartWhileRunningIsRecorded :=
  fun _ _ _ _ hlive hmain hrunning => exec_xferStart_running hlive hmain hrunning

/-! ### A stop (R225, R229) -/

theorem truncAfterStop_iff (s : State) :
    truncAfterStop s = true ↔ s.trunc = true ∨ s.xcnt.toNat < bufferSize s.cfg := by simp [truncAfterStop]

theorem splitAfterStop_iff (s : State) : splitAfterStop s = true ↔ s.split = true ∨ s.xcur ≠ 0 := by
  simp [splitAfterStop]

/-- A stop whose draw fails only draws (R229). -/
theorem stopIfRunning_fails {s : State} (hx : s.xstate = .running) (hmay : s.cfg.xferMayFail = true)
    (hdraw : Config.failDraw s.draws = true) : stopIfRunning s = draw s := by
  simp [stopIfRunning, hx, failDraw, hmay, hdraw, afterDraw]

theorem stopIfRunning_succeeds {s : State} (hx : s.xstate = .running) (hmay : s.cfg.xferMayFail = true)
    (hdraw : Config.failDraw s.draws = false) : stopIfRunning s = stopEngine (draw s) := by
  simp [stopIfRunning, hx, failDraw, hmay, hdraw, afterDraw]

/-- Settles O34: with no failure the engine's side of XFER_STOP is `stopEngine`, and nothing when it is STOPPED. -/
theorem stopEndsTheTransfer : Obligations.StopEndsTheTransfer := by
  intro s word kind T hlive hmain
  rw [exec_xferStop hlive hmain]
  refine ⟨fun hstopped => ?stopped, fun hcertain hrunning => ?running⟩
  case stopped => rw [stopIfRunning_stopped hstopped]; rfl
  case running =>
    rw [stopIfRunning_running hrunning hcertain]
    exact ⟨_, rfl, truncAfterStop_iff s, splitAfterStop_iff s, rfl⟩

/-! ### A start (R227, R229) -/

/-- A start whose draw fails only draws (R229). -/
theorem startOrFail_fails {s : State} (T : Buf) (hmay : s.cfg.xferMayFail = true)
    (hdraw : Config.failDraw s.draws = true) : startOrFail T s = draw s := by
  simp [startOrFail, failDraw, hmay, hdraw, afterDraw]

theorem startOrFail_succeeds {s : State} (T : Buf) (hmay : s.cfg.xferMayFail = true)
    (hdraw : Config.failDraw s.draws = false) : startOrFail T s = startEngine T (draw s) := by
  simp [startOrFail, failDraw, hmay, hdraw, afterDraw]

/-- Settles O35: with no failure the engine's side of XFER_START is `startEngine`. -/
theorem startBeginsTheTransfer : Obligations.StartBeginsTheTransfer := by
  intro s word kind T hlive hcertain hmain hstopped hbuffer
  rw [exec_xferStart hlive hmain hstopped hbuffer, startOrFail_certain T hcertain]
  rfl

/-- Settles O37: the draw decides between the whole effect and none, and MAIN moves on either way. -/
theorem stopAndStartMayFail : Obligations.StopAndStartMayFail := by
  intro s word kind T hlive hmay
  refine ⟨fun hmain hrunning => ?stop, fun hmain hstopped hbuffer => ?start⟩
  case stop =>
    refine ⟨_, exec_xferStop hlive hmain, fun hfails => ?_, fun hsucceeds => ?_⟩
    · rw [stopIfRunning_fails hrunning hmay hfails]; rfl
    · rw [stopIfRunning_succeeds hrunning hmay hsucceeds]
      exact ⟨truncAfterStop_iff s, splitAfterStop_iff s, rfl⟩
  case start =>
    refine ⟨_, exec_xferStart hlive hmain hstopped hbuffer, fun hfails => ?_, fun hsucceeds => ?_⟩
    · rw [startOrFail_fails T hmay hfails]; rfl
    · rw [startOrFail_succeeds T hmay hsucceeds]; rfl

/-! ### An emit (R230, R231) -/

theorem exec_xferEmit_stopped {s : State} (hlive : Live s) (hx : s.xstate = .stopped) :
    exec .xferEmit s = .fault .notEnabled := by
  simp only [exec, execXferEmit, whenLive_of_live hlive, hx]

/-- An emit before the end of a pass sends the slot and counts it. -/
theorem emitSlot_mid {s : State} (hmid : s.xcur.toNat + 1 < bufferSize s.cfg) :
    emitSlot s = { s with
      xcnt := xcntAfterEmit s, xcur := xcurAfterEmit s,
      trace := s.trace ++ [.slot (tbRead s s.xbuf s.xcur.toNat)] } :=
  if_pos (decide_eq_true hmid)

/-- The last emit of a pass goes back to slot 0, and in one-shot mode stops the engine with HALT. -/
theorem emitSlot_last {s : State} (hend : bufferSize s.cfg ≤ s.xcur.toNat + 1) :
    emitSlot s = { s with
      xcnt := xcntAfterEmit s, xcur := 0,
      xstate := if s.cfg.xferMode = .circular then s.xstate else .stopped,
      trace := s.trace ++ [.slot (tbRead s s.xbuf s.xcur.toNat)] ++
        if s.cfg.xferMode = .circular then [] else [.halt] } := by
  have hlast : passContinues s = false := by simpa [passContinues] using hend
  cases hmode : s.cfg.xferMode <;> simp [emitSlot, xcurAfterEmit, hlast, endOfPass, emit, hmode]

/-- Settles O38: an emit goes on or halts by its place in the pass and the mode; the counters are the same in both cases. -/
theorem emitSendsTheNextSlot : Obligations.EmitSendsTheNextSlot := by
  intro s hlive
  refine ⟨exec_xferEmit_stopped hlive, fun hrunning hcur hbuffer => ?_⟩
  refine ⟨_, exec_xferEmit hlive hrunning hcur hbuffer, ?_, fun hmid => ?mid, fun hend => ?last, ?frame⟩
  · rw [emitSlot_xcnt, xcntAfterEmit_toNat hlive.1]
  case mid =>
    refine ⟨?_, ?_⟩
    · rw [emitSlot_xcur, xcurAfterEmit_toNat hlive.1, if_pos hmid]
    · rw [emitSlot_mid hmid]
      exact ⟨hrunning, rfl⟩
  case last =>
    rw [emitSlot_last hend.ge]
    refine ⟨rfl, fun hmode => ?_, fun hmode => ?_⟩
    · simp [hmode, hrunning]
    · simp [hmode]
  case frame =>
    rw [emitSlot_xcnt, emitSlot_xcur]
    exact emitSlot_frame s

/-! ### A pass (R231) -/

/-- The SLOT events of the slots of the engine's buffer below k. -/
def slotEvents (s : State) (k : Nat) : List LineEvent := (List.range k).map fun w => .slot (tbRead s s.xbuf w)

theorem slotEvents_succ (s : State) (k : Nat) :
    slotEvents s (k + 1) = slotEvents s k ++ [.slot (tbRead s s.xbuf k)] := by
  simp [slotEvents, List.range_succ]

/-- The first k emits of a pass that began in s have sent the slots below k, and nothing but the counters and TRACE has
changed. XCNT may have begun at any value, so it is known from below only. -/
structure PassReached (s : State) (k : Nat) (t : State) : Prop where
  cursor : t.xcur.toNat = k
  counted : k ≤ t.xcnt.toNat
  trace : t.trace = s.trace ++ slotEvents s k
  frame : t = { s with xcnt := t.xcnt, xcur := t.xcur, trace := t.trace }

section
variable {s t : State} {k : Nat}

theorem passReached_cfg (h : PassReached s k t) : t.cfg = s.cfg := by rw [h.frame]

/-- The engine reads the slots it would have read at the beginning of the pass. -/
theorem passReached_slot (h : PassReached s k t) (w : Nat) : tbRead t t.xbuf w = tbRead s s.xbuf w := by
  rw [h.frame]
  rfl

/-- The next emit of a pass under way is enabled. -/
theorem passReached_exec (h : PassReached s k t) (hlive : Live s) (hrunning : s.xstate = .running)
    (hbuffer : s.xbuf = .b0 ∨ s.cfg.doubleBuffer = true) (hk : k < bufferSize s.cfg) :
    exec .xferEmit t = .next (emitSlot t) := by
  have hcursor := h.cursor
  rw [h.frame] at hcursor ⊢
  exact exec_xferEmit hlive hrunning (hcursor.symm ▸ hk) hbuffer

/-- An emit before the last reaches the next slot. -/
theorem passReached_emitSlot (h : PassReached s k t) (hlegal : legal s.cfg = true) (hk : k + 1 < bufferSize s.cfg) :
    PassReached s (k + 1) (emitSlot t) := by
  have hcfg := passReached_cfg h
  have hslot := passReached_slot h k
  obtain ⟨hcursor, hcounted, htrace, hframe⟩ := h
  have hmid : t.xcur.toNat + 1 < bufferSize t.cfg := by rwa [hcursor, hcfg]
  rw [← hcfg] at hlegal
  refine ⟨?_, ?_, ?_, ?_⟩
  · rw [emitSlot_xcur, xcurAfterEmit_toNat hlegal, if_pos hmid, hcursor]
  · rw [emitSlot_xcnt, xcntAfterEmit_toNat hlegal]
    omega
  · rw [emitSlot_mid hmid, slotEvents_succ, ← List.append_assoc, ← htrace, hcursor, hslot]
  · rw [emitSlot_mid hmid, hframe]

end

/-- The emits of a pass up to any slot of the buffer. -/
theorem execAll_emits {s : State} {k : Nat} (hlive : Live s) (hrunning : s.xstate = .running) (hcur : s.xcur = 0)
    (hbuffer : s.xbuf = .b0 ∨ s.cfg.doubleBuffer = true) (hk : k < bufferSize s.cfg) :
    ∃ t, execAll (List.replicate k .xferEmit) s = .next t ∧ PassReached s k t := by
  induction k with
  | zero => exact ⟨s, rfl, by rw [hcur]; rfl, Nat.zero_le _, by simp [slotEvents], rfl⟩
  | succ k ih =>
    obtain ⟨t, hrun, hreached⟩ := ih (Nat.lt_of_succ_lt hk)
    have hstep := passReached_exec hreached hlive hrunning hbuffer (Nat.lt_of_succ_lt hk)
    rw [List.replicate_succ', execAll_append hrun, execAll_cons hstep]
    exact ⟨_, rfl, passReached_emitSlot hreached hlive.1 hk⟩

/-- Settles O39: all emits but the last reach the last slot, and the last one wraps or halts. -/
theorem passSendsTheBuffer : Obligations.PassSendsTheBuffer := by
  intro s hlive hrunning hcur hbuffer
  obtain ⟨-, -, hsize, -, -⟩ := legal_bounds hlive.1
  obtain ⟨n, hn⟩ := Nat.exists_eq_add_of_le' hsize
  have hlast : n < bufferSize s.cfg := by omega
  obtain ⟨u, hrun, hreached⟩ := execAll_emits hlive hrunning hcur hbuffer hlast
  have hstep := passReached_exec hreached hlive hrunning hbuffer hlast
  have hcfg := passReached_cfg hreached
  have hslot := passReached_slot hreached n
  obtain ⟨hcursor, hcounted, htrace, hframe⟩ := hreached
  have hend : bufferSize u.cfg ≤ u.xcur.toNat + 1 := by rw [hcfg, hcursor, hn]
  refine ⟨emitSlot u, ?run, ?trace, ?xstate, ?count, ?frame⟩
  case run =>
    rw [hn, List.replicate_succ', execAll_append hrun, execAll_cons hstep]
    rfl
  case count =>
    rw [emitSlot_xcnt, xcntAfterEmit_toNat (by rw [hcfg]; exact hlive.1), hcfg]
    omega
  case trace =>
    change _ = s.trace ++ slotEvents s (bufferSize s.cfg) ++ _
    rw [emitSlot_last hend, hn, slotEvents_succ, ← List.append_assoc, ← htrace, hcursor, hslot, hcfg]
  case xstate =>
    rw [emitSlot_last hend, hcfg, hframe, hrunning]
  case frame =>
    rw [emitSlot_last hend, hframe, hcur]

/-! ### A whole SHOW (R210, R212) -/

/-- The stop and the start at the end of a SHOW, CLEAR or INIT, when neither can fail. -/
theorem execAll_restart {s : State} {word : Word} {kind : ShowKind} {T : Buf} (hlive : Live s)
    (hcertain : s.cfg.xferMayFail = false) (hmain : s.main = .busy word (.stop kind T))
    (hbuffer : T = .b0 ∨ s.cfg.doubleBuffer = true) :
    execAll [.xferStop, .xferStart T] s = .next (setMain .idle (startEngine T (stopIfRunning s))) := by
  have hstop := exec_xferStop hlive hmain
  have hlive' : Live (setMain (.busy word (.start kind T)) (stopIfRunning s)) := by simpa [Live] using hlive
  have hstart := exec_xferStart hlive' rfl (stopIfRunning_stops hcertain) (by simpa using hbuffer)
  rw [startOrFail_certain T (by simpa using hcertain)] at hstart
  rw [execAll_cons hstop, execAll_cons hstart]
  rfl

/-- Settles O40: the accepting step, the encode phase and the restart, one after the other. -/
theorem showRestartsTheTransfer : Obligations.ShowRestartsTheTransfer := by
  intro s hs hinited hcertain h0 h1 hact
  have hbuffer : target s = .b0 ∨ s.cfg.doubleBuffer = true :=
    buf_exists fun hsingle => by simp [target, hsingle, hact hsingle]
  obtain ⟨u, hencode, henc, hother, hmain, hframe⟩ :=
    encodePhaseComputesEnc (beginShow s) _ .forShow (target s) hs.1 h0 h1 rfl hbuffer
  obtain ⟨hpx, ⟨hxstate, -⟩, ⟨hinit, htrunc, hsplit⟩, ⟨hfault, hcode, hword, hctx⟩, ⟨htrace, hout⟩,
    ⟨hcfg, hagenda, hport⟩, -⟩ := hframe
  refine ⟨setMain .idle (startEngine (target s) (stopIfRunning u)), ?run, fun w hw => ?encoded, fun w => ?other, rfl, rfl,
    rfl, rfl, rfl, rfl, fun hstopped => ?stopped, fun hrunning => ?running, ?pixels, ?inited, ?fault, ?out,
    ?model⟩
  case run =>
    rw [execAll_cons (exec_showFrame hs hinited)]
    refine (execAll_append hencode).trans ?_
    exact execAll_restart (by simpa [Live, hcfg, hfault] using hs.1) (by simpa [hcfg] using hcertain) hmain
      (by simpa [hcfg] using hbuffer)
  case encoded =>
    rw [tbRead_congr (s := u) (by simp) (by simp), henc w hw]
    exact encSlot_congr rfl rfl w
  case other =>
    rw [tbRead_congr (s := u) (by simp) (by simp), hother]
    exact tbRead_congr rfl rfl _ w
  case stopped =>
    have hu : stopIfRunning u = u := stopIfRunning_stopped (hxstate.trans hstopped)
    simp [hu, htrace, htrunc, hsplit]
  case running =>
    have hu : stopIfRunning u = stopEngine u :=
      stopIfRunning_running (hxstate.trans hrunning) (by simpa [hcfg] using hcertain)
    simp [hu, htrace]
  case pixels => simp [SamePixels, hpx]
  case inited => simp [hinit, hinited]
  case fault => simp [SameFault, hfault, hcode, hword, hctx]
  case out => simp [hout]
  case model => simp [SameModel, hcfg, hagenda, hport]

/-! ### The zeroing phase (R216, R217) -/

theorem afterClr_nil (s : State) (word : Word) (kind : ClearKind) :
    afterClr s word kind [] = .busy word (.enc (showKindOf kind) (target s) 0) := rfl

theorem afterClr_of_ne_nil {s : State} {word : Word} {kind : ClearKind} {pend : List (Nat × Chan)} (h : pend ≠ []) :
    afterClr s word kind pend = .busy word (.clr kind pend) := if_neg h

/-- Settles O27: the byte step is PxWrite of 0, and MAIN moves on by what is left pending. -/
theorem pixelWriteOfZeroing : Obligations.PixelWriteOfZeroing := by
  intro s word kind pend index c hlive hwf hindex hmain hc
  refine ⟨_, exec_pxWrite_clr hlive hindex hmain hc, pxRead_pxWrite_same s _ c _ hwf,
    fun j d hne => pxRead_pxWrite_other s _ hne, fun hlast => ?last, fun hmore => ?more, rfl, pixelFrame_update ..⟩
  case last => rw [setMain_main, without_nil.mpr hlast, afterClr_nil]
  case more => exact afterClr_of_ne_nil (without_ne_nil hmore)

/-- The number of a pixel fits INDEX (00_scope.md R8). -/
theorem pixelNumber_toNat {c : Config} {i : Nat} (hlegal : legal c = true) (hi : i < c.ledCount) :
    (BitVec.ofNat 16 i).toNat = i := by
  have hbounds := legal_bounds hlegal
  rw [BitVec.toNat_ofNat, Nat.mod_eq_of_lt (by omega)]

/-- Once the first step of an order is taken, the rest of it is an order of what is left pending. -/
theorem perm_without {α : Type} [DecidableEq α] {x : α} {order pend : List α} (hnodup : pend.Nodup)
    (h : (x :: order).Perm pend) : order.Perm (without pend x) := by
  have herase := (List.cons_perm_iff_perm_erase.mp h).2
  rw [hnodup.erase_eq_filter] at herase
  simpa [without, bne, beq_eq_decide] using herase

/-- The PX_WRITEs of the pending bytes, in any order, zero those bytes and begin the encode. -/
theorem execAll_zeroingMicros {word : Word} {kind : ClearKind} {order pend : List (Nat × Chan)} {s : State}
    (hlive : Live s) (hwf : cellsWf s.px = true) (hmain : s.main = afterClr s word kind pend) (hnodup : pend.Nodup)
    (horder : order.Perm pend) (hrange : ∀ e ∈ pend, e.1 < s.cfg.ledCount) :
    ∃ t, execAll (zeroingMicros order) s = .next t ∧
      t.main = .busy word (.enc (showKindOf kind) (target s) 0) ∧ t.out = s.out ∧ PixelFrame s t ∧
      ∀ j d, pxRead t j d = if (j, d) ∈ order then 0 else pxRead s j d := by
  induction order generalizing s pend with
  | nil =>
    obtain rfl := List.nil_perm.mp horder
    exact ⟨s, rfl, hmain, rfl, pixelFrame_update .., by simp⟩
  | cons e order ih =>
    obtain ⟨i, c⟩ := e
    have hmem : (i, c) ∈ pend := horder.subset List.mem_cons_self
    have hi : i < s.cfg.ledCount := hrange _ hmem
    have hfits := pixelNumber_toNat hlive.1 hi
    rw [afterClr_of_ne_nil (List.ne_nil_of_mem hmem)] at hmain
    have hstep := exec_pxWrite_clr (index := BitVec.ofNat 16 i) hlive (by rwa [hfits]) hmain (by rwa [hfits])
    rw [hfits] at hstep
    obtain ⟨t, hrun, hphase, hout, hframe, hread⟩ :=
      ih (s := setMain (afterClr s word kind (without pend (i, c))) (pxWrite s i c 0)) hlive (cellsWf_write _ _ hwf) rfl
        (hnodup.sublist (without_sublist _ _)) (perm_without hnodup horder)
        (fun e he => hrange e (mem_without.mp he).1)
    refine ⟨t, (execAll_cons hstep).trans hrun, hphase, hout, pixelFrame_trans (pixelFrame_update ..) hframe,
      fun j d => ?_⟩
    rw [hread, pxRead_setMain, pxRead_pxWrite s _ _ _ _ _ hwf]
    by_cases hhead : (j, d) = (i, c) <;> simp [hhead]

/-- Settles O41: the pending bytes are those of the order, and the phase begins with some byte pending. -/
theorem zeroingInAnyOrder : Obligations.ZeroingInAnyOrder := by
  intro s word kind pend order hlive hwf hmain hsome hnodup horder hrange
  rw [← afterClr_of_ne_nil (s := s) hsome] at hmain
  obtain ⟨t, hrun, hphase, hout, hframe, hread⟩ := execAll_zeroingMicros hlive hwf hmain hnodup horder hrange
  refine ⟨t, hrun, fun i c hmem => ?_, fun i c hmem => ?_, hphase, hout, hframe⟩
  · rw [hread, if_pos (horder.mem_iff.mpr hmem)]
  · rw [hread, if_neg (mt horder.mem_iff.mp hmem)]

/-! ### Two buffers (R213, R234) -/

/-- Settles O54: the encode writes target(), which with two buffers is not ACT, the buffer a RUNNING engine reads. -/
theorem doubleBufferedEncodeSparesTheEngine : Obligations.DoubleBufferedEncodeSparesTheEngine := by
  intro s t T slot hs hdouble hrunning h
  cases (exec_effect h).2 with
  | mainFault _ command | irqFault _ command => cases command
  | encWrite word kind _ _ main =>
    obtain ⟨hT, -⟩ := (mainOk_busy main).mp hs.mainRecord
    obtain ⟨hreads, -⟩ := hs.bufferNumbers
    have hne : T ≠ s.xbuf := by
      rw [hT, hreads hrunning, target, hdouble, if_pos rfl]
      exact otherBuf_ne s.act
    exact ⟨hne, fun w => tbRead_tbWrite_buffer s slot.toNat w _ hne.symm⟩

/-! ### The commands (R212, R216, R220) -/

/-- Settles O20: no check applies, and the words are those of 30_encoding.md R104. -/
theorem initShowClearAreAccepted : Obligations.InitShowClearAreAccepted := by
  intro s hs
  exact ⟨exec_init hs, exec_clear hs, exec_showFrame hs, fun _ _ => mem_allPixelBytes⟩

end Sys2Proof.Machine
end

section
/-! Exceptions (60_exceptions.md R261 to R272): the faulted state, the checks of acceptance in both contexts, and what a
recorded fault writes. -/

namespace Sys2Proof.Machine

/-! ### The faulted state (R263) -/

theorem whenLive_faulted {s : State} (hlegal : legal s.cfg = true) (hfault : s.fault = true) (k : Out) :
    whenLive s k = .fault .halted := by
  simp [whenLive, hlegal, hfault]

theorem exec_faulted {s : State} (hlegal : legal s.cfg = true) (hfault : s.fault = true) (i : Instr) :
    exec i s = .fault .halted := by
  obtain ⟨k, hk⟩ := exec_eq_whenLive i s
  rw [hk, whenLive_faulted hlegal hfault]

theorem step_faulted {s : State} (hlegal : legal s.cfg = true) (hfault : s.fault = true) : step s = .fault .halted :=
  whenLive_faulted hlegal hfault _

/-- Settles O12: `step` and `exec` begin with the check of FAULT, and a restart takes the reset values. -/
theorem faultedStateHasNoStep : Obligations.FaultedStateHasNoStep := by
  intro s i hlegal hfault
  have hnoEnd : ¬ RunMayEnd s := fun ⟨_, hclear⟩ => by simp [hfault] at hclear
  exact ⟨step_faulted hlegal hfault, exec_faulted hlegal hfault i, hnoEnd, rfl, rfl, rfl, rfl⟩

/-! ### A word issued at the port (R271, R272) -/

/-- Settles O7: the port decodes the word and runs its command. -/
theorem stepRunsTheIssuedCommand : Obligations.StepRunsTheIssuedCommand := by
  intro s ctx w rest i hlive hagenda hdecode
  simp only [step_issue hlive hagenda, issueWord, hdecode]
  rfl

/-! ### The checks of acceptance (R271, R272) -/

/-- Every command goes through acceptance. -/
theorem exec_eq_accept {i : Instr} (s : State) (hcommand : i.isCommand = true) :
    ∃ m q, exec i s = accept i s m q := by
  cases i with
  | init | showFrame | clear => exact ⟨_, s, rfl⟩
  | setPixel | getPixel => exact ⟨_, _, rfl⟩
  | pxWrite | pxRead | encWrite | xferStop | xferStart | xferEmit => cases hcommand

theorem exec_main_fault {s : State} (i : Instr) (code : FaultCode) (hs : AtMain s) (hcommand : i.isCommand = true)
    (hcheck : mainCheck i s = some code) : exec i s = .next (raiseFault code (encode i) .main s) := by
  obtain ⟨m, q, haccept⟩ := exec_eq_accept s hcommand
  rw [haccept, accept_main_fault i hs hcheck]

theorem exec_irq_fault {s : State} (i : Instr) (code : FaultCode) (hs : AtIrq s) (hcommand : i.isCommand = true)
    (hcheck : irqCheck i s = some code) : exec i s = .next (raiseFault code (encode i) .irq s) := by
  obtain ⟨m, q, haccept⟩ := exec_eq_accept s hcommand
  rw [haccept, accept_irq_fault i hs hcheck]

theorem accept_mainBusy {i : Instr} {s m q : State} (hlive : Live s) (hport : s.portCtx = .main)
    (hbusy : s.main ≠ .idle) : accept i s m q = .fault .mainBusy := by
  unfold accept
  rw [whenLive_of_live hlive, hport]
  cases hmain : s.main with
  | idle => exact absurd hmain hbusy
  | busy => rfl

/-- Settles O15: the check that fails is INITED's, and the words are those of 30_encoding.md R104. -/
theorem mainAcceptanceFaults : Obligations.MainAcceptanceFaults := by
  intro s hs
  refine ⟨fun hinited => ?init, fun hclear => ⟨?showFrame, ?clear, fun index r g b => ?setPixel⟩⟩
  case init => exact exec_main_fault .init .initRepeated hs rfl (by simp [mainCheck, hinited])
  case showFrame => exact exec_main_fault .showFrame .notInitialized hs rfl (by simp [mainCheck, hclear])
  case clear => exact exec_main_fault .clear .notInitialized hs rfl (by simp [mainCheck, hclear])
  case setPixel => exact exec_main_fault (.setPixel index r g b) .notInitialized hs rfl (by simp [mainCheck, hclear])

/-- Settles O16: IRQ_CONTEXT is raised without a look at INITED, NOT_INITIALIZED by it. -/
theorem irqAcceptanceFaults : Obligations.IrqAcceptanceFaults := by
  intro s hs
  refine ⟨?init, ?showFrame, ?clear, fun hclear index r g b => ?setPixel⟩
  case init => exact exec_irq_fault .init .irqContext hs rfl rfl
  case showFrame => exact exec_irq_fault .showFrame .irqContext hs rfl rfl
  case clear => exact exec_irq_fault .clear .irqContext hs rfl rfl
  case setPixel => exact exec_irq_fault (.setPixel index r g b) .notInitialized hs rfl (by simp [irqCheck, hclear])

/-- Settles O17: acceptance from MAIN asks for MAIN = IDLE before any other check. -/
theorem busyMainHasNoMove : Obligations.BusyMainHasNoMove := by
  intro s i hlive hport hbusy hcommand
  obtain ⟨m, q, haccept⟩ := exec_eq_accept s hcommand
  rw [haccept, accept_mainBusy hlive hport hbusy]

/-! ### What a recorded fault writes (R261, R262, R264) -/

/-- The faults that the checks of acceptance raise for a command (R261, R271, R272). -/
abbrev AcceptanceFault (code : FaultCode) : Prop :=
  code = .irqContext ∨ code = .initRepeated ∨ code = .notInitialized

theorem mainCheck_code {i : Instr} {s : State} {code : FaultCode} (hcommand : i.isCommand = true)
    (h : mainCheck i s = some code) : AcceptanceFault code := by
  cases i with
  | init | setPixel | getPixel | showFrame | clear => cases hinited : s.inited <;> simp_all [mainCheck, AcceptanceFault]
  | pxWrite | pxRead | encWrite | xferStop | xferStart | xferEmit => cases hcommand

theorem irqCheck_code {i : Instr} {s : State} {code : FaultCode} (hcommand : i.isCommand = true)
    (h : irqCheck i s = some code) : AcceptanceFault code := by
  cases i with
  | init | setPixel | getPixel | showFrame | clear => cases hinited : s.inited <;> simp_all [irqCheck, AcceptanceFault]
  | pxWrite | pxRead | encWrite | xferStop | xferStart | xferEmit => cases hcommand

theorem fcodeOf_acceptanceFault {code : FaultCode} (h : AcceptanceFault code) : (fcodeOf code).toNat ∈ [2, 3, 4] := by
  obtain rfl | rfl | rfl := h <;> decide

/-- The two ways an instruction records a fault: a check of acceptance, and XFER_START of a RUNNING engine
(R261, 42_transfer_controller.md R227). -/
theorem exec_fault {i : Instr} {s t : State} (h : exec i s = .next t) (ht : t.fault = true) :
    (i.isCommand = true ∧ ∃ code, AcceptanceFault code ∧ t = raiseFault code (encode i) s.portCtx s) ∨
      ∃ b word kind, i = .xferStart b ∧ s.main = .busy word (.start kind b) ∧ s.xstate = .running ∧
        t = raiseFault .startWhileRunning word .main s := by
  obtain ⟨⟨-, hclear⟩, heffect⟩ := exec_effect h
  cases heffect with
  | mainFault code command port _ check => exact .inl ⟨command, code, mainCheck_code command check, by rw [port]⟩
  | irqFault code command port check => exact .inl ⟨command, code, irqCheck_code command check, by rw [port]⟩
  | startFault word kind b main running => exact .inr ⟨b, word, kind, rfl, main, running, rfl⟩
  | _ => simp [hclear] at ht

/-- Settles O18: either way the next state is `raiseFault` of the state before. -/
theorem faultingInstructionWritesOnlyTheRecord : Obligations.FaultingInstructionWritesOnlyTheRecord := by
  intro i s t h ht
  obtain ⟨-, code, -, rfl⟩ | ⟨b, word, kind, -, -, -, rfl⟩ := exec_fault h ht
  · rfl
  · rfl

/-- Settles O19: the record of either way. -/
theorem faultRecordNamesTheCommand : Obligations.FaultRecordNamesTheCommand := by
  intro i s t h ht
  obtain ⟨hcommand, code, hcode, rfl⟩ | ⟨b, word, kind, hi, hmain, hrunning, rfl⟩ := exec_fault h ht
  · exact .inl ⟨hcommand, rfl, rfl, fcodeOf_acceptanceFault hcode⟩
  · exact .inr ⟨b, word, kind, hi, hmain, hrunning, rfl, rfl, rfl⟩

end Sys2Proof.Machine
end

section
/-! Reset and hazards (70_reset_and_hazards.md): the reset values, the wait for the host, and the progress that weak fairness
gives (R300, R301, R330). -/

namespace Sys2Proof.Machine

/-! ### Reset (R300, 10_state.md R48) -/

/-- Settles O58: the stores are empty lists, and an unlisted element reads 0; every other value is written in `resetWith`. -/
theorem resetLeavesTheResetValues : Obligations.ResetLeavesTheResetValues := by
  intro c
  refine ⟨fun i ch => cellRead_nil _, fun b w => ?slots, rfl, rfl, rfl, rfl, rfl, rfl, rfl, rfl, rfl, rfl, rfl, rfl, rfl,
    rfl, rfl⟩
  case slots => cases b <;> exact cellRead_nil w

theorem memoryWf_resetWith (c : Config) : Memory.wf (State.resetWith c) = true := rfl

theorem blockInv_resetWith {c : Config} (hlegal : legal c = true) : BlockInv (State.resetWith c) where
  legalConfig := hlegal
  stores := ⟨⟨rfl, rfl⟩, ⟨rfl, rfl⟩, ⟨rfl, rfl⟩, fun _ => rfl⟩
  counters := ⟨(legal_bounds hlegal).2.2.1, Nat.zero_le _⟩
  bufferNumbers := ⟨fun _ => rfl, fun _ => ⟨rfl, rfl⟩⟩
  record := ⟨fun _ => ⟨rfl, rfl, rfl⟩, fun hfault => by cases hfault⟩
  mainRecord := mainOk_idle rfl

theorem lineInv_resetWith (c : Config) : LineInv (State.resetWith c) where
  readsCoded hrunning := by cases hrunning
  encode := trivial
  trace _ hmem := absurd hmem List.not_mem_nil

theorem noStartFault_resetWith (c : Config) : NoStartFault (State.resetWith c) := by
  intro _
  change (0 : BitVec 8) ≠ fcodeOf .startWhileRunning
  decide

/-- Settles O57: the stores are empty, the engine is STOPPED, MAIN is IDLE and no fault is recorded; a legal configuration
has at least one slot, so XCUR = 0 is one. -/
theorem resetMeetsTheInvariants : Obligations.ResetMeetsTheInvariants := fun c hlegal =>
  ⟨memoryWf_resetWith c, blockInv_resetWith hlegal, lineInv_resetWith c, noStartFault_resetWith c⟩

/-! ### The wait for the host (R301) -/

theorem mainMicros_idle {s : State} (hidle : s.main = .idle) : mainMicros s = [] := by simp [mainMicros, hidle]

theorem engineMicros_stopped {s : State} (hstopped : s.xstate = .stopped) : engineMicros s = [] := by
  simp [engineMicros, hstopped]

theorem engineMicros_running {s : State} (hrunning : s.xstate = .running) : engineMicros s = [.xferEmit] := by
  simp [engineMicros, hrunning]

theorem freeRun_waits {s : State} (hnone : enabledMicros s = []) : freeRun s = .next s := by
  simp [freeRun, freeMicro, hnone]

/-- Settles O11: neither agent has a micro-step enabled. -/
theorem idleBlockWaitsForTheHost : Obligations.IdleBlockWaitsForTheHost := by
  intro s hlive hagenda hidle hstopped
  rw [step_free hlive hagenda]
  exact freeRun_waits (by rw [enabledMicros, mainMicros_idle hidle, engineMicros_stopped hstopped, List.append_nil])

end Sys2Proof.Machine
end

section
/-! Liveness (70_reset_and_hazards.md R330): in a weakly fair run a command in progress completes and a RUNNING engine goes
on writing the line. -/

namespace Sys2Proof.Machine

/-! ### Runs -/

section
variable {run : Nat → State} (hrun : RunOf run)
include hrun

/-- Every state of an unending run steps on, so none has FAULT = 1. -/
theorem runOf_live (m : Nat) : Live (run m) := by
  obtain ⟨t, agenda, hstep, -⟩ := hrun m
  exact (step_effect hstep).1

/-- A property that does not see the agenda and that every step keeps holds from any state of a run on. -/
theorem runOf_keeps {P : State → Prop} (rename : ∀ s agenda, P s → P { s with agenda := agenda })
    (keeps : ∀ s t, P s → step s = .next t → P t) {n : Nat} (hn : P (run n)) : ∀ m ≥ n, P (run m) := by
  intro m hm
  induction m, hm using Nat.le_induction with
  | base => exact hn
  | succ m _ ih =>
    obtain ⟨t, agenda, hstep, hnext⟩ := hrun m
    rw [hnext]
    exact rename t agenda (keeps _ t ih hstep)

theorem runOf_blockInv {n : Nat} (hn : BlockInv (run n)) : ∀ m ≥ n, BlockInv (run m) :=
  runOf_keeps hrun (fun s agenda => blockInv_reseat ⟨agenda, s.portCtx, s.draws, rfl⟩) stepKeepsTheBlockInvariant hn

end

/-- The rule of weak fairness: where P stays until Q and a step of the fair kind brings Q, Q comes. -/
theorem eventually_of_weaklyFair {P Q Taken : Nat → Prop} {n : Nat} (start : P n)
    (advance : ∀ m ≥ n, P m → Q (m + 1) ∨ (P (m + 1) ∧ ¬ Taken m))
    (fair : (∀ m ≥ n, P m) → ∃ m ≥ n, Taken m) : ∃ m ≥ n, Q m := by
  by_contra hnever
  push Not at hnever
  have hstays : ∀ m ≥ n, P m → P (m + 1) ∧ ¬ Taken m := fun m hm hP =>
    (advance m hm hP).resolve_left (hnever (m + 1) (by omega))
  have hP : ∀ m ≥ n, P m := fun m hm =>
    Nat.le_induction start (fun m hm ih => (hstays m hm ih).1) m hm
  obtain ⟨m, hm, htaken⟩ := fair hP
  exact (hstays m hm (hP m hm)).2 htaken

/-! ### What is left of a command in progress -/

/-- A bound on the micro-steps a phase still has to take, up to the end of its command (40_pixel_store.md R141, R151,
42_transfer_controller.md R212, R216). -/
def phaseLeft (c : Config) : Phase → Nat
  | .setp _ _ _ _ pend => pend.length
  | .getp _ _ pend => pend.length
  | .clr _ pend => pend.length + bufferSize c + 2
  | .enc _ _ w => bufferSize c - w + 2
  | .stop _ _ => 2
  | .start _ _ => 1

/-- The same for MAIN: 0 when IDLE. -/
def mainLeft (c : Config) : MainRec → Nat
  | .idle => 0
  | .busy _ phase => phaseLeft c phase

theorem without_length_lt {α : Type} [DecidableEq α] {l : List α} {x : α} (hx : x ∈ l) :
    (without l x).length < l.length :=
  List.length_filter_lt_length_iff_exists.mpr ⟨x, hx, by simp⟩

theorem mainLeft_afterSetp (c : Config) (word : Word) (index : BitVec 16) (g r b : Byte) (pend : List Chan) :
    mainLeft c (afterSetp word index g r b pend) = pend.length := by
  unfold afterSetp
  split
  · next hnil => rw [hnil]; rfl
  · rfl

theorem mainLeft_afterClr (s : State) (word : Word) (kind : ClearKind) (pend : List (Nat × Chan)) :
    mainLeft s.cfg (afterClr s word kind pend) = pend.length + bufferSize s.cfg + 2 := by
  unfold afterClr
  split
  · next hnil => simp [hnil, mainLeft, phaseLeft]
  · rfl

theorem mainLeft_afterEnc {c : Config} {w : Nat} (word : Word) (kind : ShowKind) (T : Buf) (hw : w < bufferSize c) :
    mainLeft c (afterEnc c word kind T w) + 1 = bufferSize c - w + 2 := by
  unfold afterEnc
  split <;> simp only [mainLeft, phaseLeft] <;> omega

/-- While a command is in progress an effect brings its end nearer, or is an interrupt's command or the engine's XFER_EMIT,
which leave MAIN alone. -/
theorem effect_mainLeft {i : Instr} {s t : State} (h : Effect i s t) (hbusy : s.main ≠ .idle) (hclear : t.fault = false) :
    mainLeft s.cfg t.main < mainLeft s.cfg s.main ∨ (t.main = s.main ∧ (i.isCommand = true ∨ i = .xferEmit)) := by
  cases h with
  | mainFault _ _ _ main | init _ main | setPixelMain _ _ _ _ _ main | getPixelMain _ _ main | showFrame _ main
  | clear _ main | pxWriteBare _ _ _ _ _ _ main => exact absurd main hbusy
  | irqFault | startFault => simp at hclear
  | setPixelIrq | getPixelIrq => exact .inr ⟨by simp, .inl rfl⟩
  | xferEmit => exact .inr ⟨by simp, .inr rfl⟩
  | pxWriteSetp _ _ _ c _ _ _ _ _ _ _ main mem =>
    left
    rw [setMain_main, main, mainLeft_afterSetp]
    exact without_length_lt mem
  | pxWriteClr _ _ c _ _ _ _ _ main mem =>
    left
    rw [setMain_main, main, mainLeft_afterClr]
    have hlt := without_length_lt mem
    simp only [mainLeft, phaseLeft]
    omega
  | pxReadMore _ _ c _ _ _ _ _ main mem =>
    left
    rw [setMain_main, main]
    exact without_length_lt mem
  | pxReadLast _ _ c _ _ _ _ _ _ main mem =>
    left
    rw [setMain_main, main]
    exact List.length_pos_of_mem mem
  | encWrite word kind T slot main inRange =>
    left
    rw [setMain_main, main]
    have hafter := mainLeft_afterEnc word kind T inRange
    simp only [mainLeft, phaseLeft] at hafter ⊢
    omega
  | xferStop _ _ _ main | xferStart _ _ _ main =>
    left
    rw [setMain_main, main]
    simp [mainLeft, phaseLeft]

/-- MAIN's micro-steps are neither commands nor the engine's. -/
theorem mem_mainMicros {s : State} {i : Instr} (hi : i ∈ mainMicros s) : i.isCommand ≠ true ∧ i ≠ .xferEmit := by
  cases hmain : s.main with
  | idle => simp [mainMicros_idle hmain] at hi
  | busy word phase =>
    cases phase with
    | setp | getp | clr =>
      simp only [mainMicros, hmain, List.mem_map] at hi
      obtain ⟨_, -, rfl⟩ := hi
      exact ⟨nofun, nofun⟩
    | enc | stop | start =>
      simp only [mainMicros, hmain, List.mem_singleton] at hi
      subst hi
      exact ⟨nofun, nofun⟩

/-- A command in progress has a micro-step enabled: what its record still waits for is not empty. -/
theorem mainMicros_ne_nil {s : State} (hinv : BlockInv s) (hbusy : s.main ≠ .idle) : mainMicros s ≠ [] := by
  cases hmain : s.main with
  | idle => exact absurd hmain hbusy
  | busy word phase =>
    have hok : PhaseOk s word phase := (mainOk_busy hmain).mp hinv.mainRecord
    cases phase with
    | setp | getp =>
      obtain ⟨-, hpend, -⟩ := hok
      simpa [mainMicros, hmain] using hpend
    | clr =>
      obtain ⟨hpend, -⟩ := hok
      simpa [mainMicros, hmain] using hpend
    | enc | stop | start => simp [mainMicros, hmain]

/-! ### What a step does for each agent -/

/-- A step while a command is in progress, with no fault recorded, brings its end nearer or leaves MAIN alone; it leaves MAIN
alone only if it takes none of MAIN's micro-steps. -/
theorem step_mainLeft {s t : State} (h : step s = .next t) (hbusy : s.main ≠ .idle) (hclear : t.fault = false) :
    mainLeft s.cfg t.main < mainLeft s.cfg s.main ∨
      (t.main = s.main ∧ ∀ i ∈ mainMicros s, microTaken s ≠ some i) := by
  obtain ⟨-, ⟨hnone, hwait | ⟨u, w, ctx, -, rfl⟩ | ⟨i, u, hcommand, ⟨a, p, d, rfl⟩, heffect⟩⟩ |
    ⟨i, u, htaken, ⟨a, p, d, rfl⟩, heffect⟩⟩ := step_effect_taken h
  · exact .inr ⟨by rw [hwait], by simp [hnone]⟩
  · simp at hclear
  · exact (effect_mainLeft heffect hbusy hclear).imp_right fun ⟨hmain, _⟩ => ⟨hmain, by simp [hnone]⟩
  · refine (effect_mainLeft heffect hbusy hclear).imp_right fun ⟨hmain, hother⟩ => ⟨hmain, fun j hj heq => ?_⟩
    obtain rfl : i = j := Option.some.inj (htaken.symm.trans heq)
    obtain ⟨hcommand, hemit⟩ := mem_mainMicros hj
    exact hother.elim hcommand hemit

/-- A stop that changes XSTATE emits HALT (42_transfer_controller.md R225). -/
theorem stopIfRunning_running_or_halt (s : State) :
    (stopIfRunning s).xstate = s.xstate ∨ (stopIfRunning s).trace = s.trace ++ [.halt] := by
  obtain h | h | h := stopIfRunning_cases s <;> simp [h]

theorem emitSlot_trace_length (s : State) : s.trace.length < (emitSlot s).trace.length := by
  obtain h | h := emitSlot_trace s <;> simp [h]

/-- An effect on a RUNNING engine writes the line, or leaves the engine RUNNING and is not XFER_EMIT. -/
theorem effect_running {i : Instr} {s t : State} (h : Effect i s t) (hrunning : s.xstate = .running) :
    s.trace.length < t.trace.length ∨ (t.xstate = .running ∧ i ≠ .xferEmit) := by
  cases h with
  | mainFault _ command | irqFault _ command => exact .inr ⟨hrunning, by rintro rfl; cases command⟩
  | xferStop =>
    obtain hsame | hhalt := stopIfRunning_running_or_halt s
    · exact .inr ⟨hsame.trans hrunning, nofun⟩
    · exact .inl (by simp [hhalt])
  | xferStart _ _ _ _ stopped => simp [hrunning] at stopped
  | xferEmit => exact .inl (emitSlot_trace_length s)
  | _ => exact .inr ⟨by simpa using hrunning, nofun⟩

/-- A step with a RUNNING engine writes the line, or leaves the engine RUNNING and is not its XFER_EMIT. -/
theorem step_running {s t : State} (h : step s = .next t) (hrunning : s.xstate = .running) :
    s.trace.length < t.trace.length ∨ (t.xstate = .running ∧ microTaken s ≠ some .xferEmit) := by
  obtain ⟨-, ⟨hnone, rfl | ⟨_, w, ctx, ⟨a, p, d, rfl⟩, rfl⟩ | ⟨i, _, -, ⟨a, p, d, rfl⟩, heffect⟩⟩ |
    ⟨i, _, htaken, ⟨a, p, d, rfl⟩, heffect⟩⟩ := step_effect_taken h
  · exact .inr ⟨hrunning, by simp [hnone]⟩
  · exact .inr ⟨hrunning, by simp [hnone]⟩
  · exact (effect_running heffect hrunning).imp_right fun ⟨hstays, _⟩ => ⟨hstays, by simp [hnone]⟩
  · exact (effect_running heffect hrunning).imp_right fun ⟨hstays, hother⟩ => ⟨hstays, by simpa [htaken] using hother⟩

/-! ### Progress -/

section
variable {run : Nat → State} (hrun : RunOf run) (hfair : WeaklyFair run)
include hrun hfair

/-- The end of a command in progress comes nearer. -/
theorem eventually_mainLeft_lt {n : Nat} (hinv : BlockInv (run n)) (hbusy : (run n).main ≠ .idle) :
    ∃ m ≥ n, mainLeft (run m).cfg (run m).main < mainLeft (run n).cfg (run n).main := by
  refine eventually_of_weaklyFair
    (P := fun m => (run m).main = (run n).main ∧ (run m).cfg = (run n).cfg)
    (Taken := fun m => ∃ i ∈ mainMicros (run m), microTaken (run m) = some i) ⟨rfl, rfl⟩ ?advance ?fair
  case advance =>
    rintro m - ⟨hmain, hcfg⟩
    obtain ⟨t, agenda, hstep, hnext⟩ := hrun m
    have hclear : t.fault = false := by simpa [hnext] using (runOf_live hrun (m + 1)).2
    have hcfg' := (step_extends hstep).cfg
    simp only [hnext, hcfg', hcfg]
    obtain hless | ⟨hsame, hnone⟩ := step_mainLeft hstep (hmain ▸ hbusy) hclear
    · exact .inl (by rwa [hmain, hcfg] at hless)
    · exact .inr ⟨⟨hsame.trans hmain, trivial⟩, fun ⟨i, hi, htaken⟩ => hnone i hi htaken⟩
  case fair =>
    intro hstays
    exact hfair.main n fun m hm => mainMicros_ne_nil (runOf_blockInv hrun hinv m hm) ((hstays m hm).1 ▸ hbusy)

/-- A command in progress completes, by induction on what is left of it. -/
theorem eventually_idle {n : Nat} (hinv : BlockInv (run n)) : ∃ m ≥ n, (run m).main = .idle := by
  induction hleft : mainLeft (run n).cfg (run n).main using Nat.strong_induction_on generalizing n with
  | _ left ih =>
    by_cases hidle : (run n).main = .idle
    · exact ⟨n, le_rfl, hidle⟩
    · obtain ⟨m, hm, hless⟩ := eventually_mainLeft_lt hrun hfair hinv hidle
      obtain ⟨k, hk, hdone⟩ := ih _ (hleft ▸ hless) (runOf_blockInv hrun hinv m hm) rfl
      exact ⟨k, hm.trans hk, hdone⟩

/-- A RUNNING engine emits, or its transfer ends with HALT. -/
theorem eventually_trace_longer {n : Nat} (hrunning : (run n).xstate = .running) :
    ∃ m ≥ n, (run n).trace.length < (run m).trace.length := by
  refine eventually_of_weaklyFair
    (P := fun m => (run m).xstate = .running ∧ (run n).trace.length ≤ (run m).trace.length)
    (Taken := fun m => microTaken (run m) = some .xferEmit) ⟨hrunning, le_rfl⟩ ?advance ?fair
  case advance =>
    rintro m - ⟨hstill, hlength⟩
    obtain ⟨t, agenda, hstep, hnext⟩ := hrun m
    have hgrows : (run m).trace.length ≤ t.trace.length := (step_extends hstep).trace.length_le
    simp only [hnext]
    obtain hlonger | ⟨hstays, hnone⟩ := step_running hstep hstill
    · exact .inl (hlength.trans_lt hlonger)
    · exact .inr ⟨⟨hstays, hlength.trans hgrows⟩, hnone⟩
  case fair =>
    intro hstays
    exact hfair.engine n fun m hm => by simp [engineMicros_running (hstays m hm).1]

end

/-- Settles O56: MAIN by a measure that its micro-steps lower, and that no other step touches while a command is in progress;
the engine because XFER_EMIT writes the line and a stop writes HALT. -/
theorem fairRunsMakeProgress : Obligations.FairRunsMakeProgress := fun _ _ hrun hfair hinv =>
  ⟨eventually_idle hrun hfair hinv, eventually_trace_longer hrun hfair⟩

end Sys2Proof.Machine
end
